-- ==== Sys2Proof/Word.lean ====
section
/-! DEFINITION. The word types of the core (00_scope.md R6, R7): bytes, command words, codes, register words. -/

namespace Sys2Proof

/-- A symbol: one byte (R6, `SYMBOL_BITS`). -/
abbrev Byte := BitVec 8

/-- A command word (R63, `CMD_BITS`). -/
abbrev Word := BitVec 16

/-- A dictionary code (R6, `CODE_BITS`). -/
abbrev Code := BitVec 16

/-- The width of `DICT_SIZE` (R23). -/
abbrev DictCount := BitVec 17

/-- A register word or a counter (R27, R33). -/
abbrev Word32 := BitVec 32

end Sys2Proof
end

