-- ==== Sys2Proof/Syntax.lean ====
section
/-! DEFINITION. The commands of the core (30_encoding.md R64): one constructor per row of `opcode_table.json`. -/

namespace Sys2Proof

/-- A defined command. An operand is a byte by its type, so no command of this type has an operand out of range (R65). -/
inductive Instr where
  /-- `NOP`, word 0x0000 (R100). -/
  | nop
  /-- `ENC_START`, word 0x0100 (R81). -/
  | encStart
  /-- `ENC_BYTE c`, word 0x02cc (R82). -/
  | encByte (c : Byte)
  /-- `ENC_END`, word 0x0300 (R83). -/
  | encEnd
  /-- `DEC_START`, word 0x1100 (R90). -/
  | decStart
  /-- `DEC_BYTE b`, word 0x12bb (R91). -/
  | decByte (b : Byte)
  /-- `DEC_END`, word 0x1300 (R93). -/
  | decEnd
  /-- `ABORT`, word 0x2000 (R101). -/
  | abort
  deriving DecidableEq, Repr

end Sys2Proof
end

