-- ==== Sys2Proof/WellFormed.lean ====
section
/-! DEFINITION. Which words are commands, read from the opcode table's masks (30_encoding.md R64, R66, R67), and the
ranges of written operands (R74, R76, R78). Instr itself has no ill-formed term: its only operands are bytes. -/

namespace Sys2Proof

/-- The mask and match of each row of `opcode_table.json`, in the table's order. -/
def opcodeRows : List (Word × Word) :=
  [ (0xFFFF#16, 0x0000#16),   -- NOP
    (0xFFFF#16, 0x0100#16),   -- ENC_START
    (0xFF00#16, 0x0200#16),   -- ENC_BYTE
    (0xFFFF#16, 0x0300#16),   -- ENC_END
    (0xFFFF#16, 0x1100#16),   -- DEC_START
    (0xFF00#16, 0x1200#16),   -- DEC_BYTE
    (0xFFFF#16, 0x1300#16),   -- DEC_END
    (0xFFFF#16, 0x2000#16) ]  -- ABORT

/-- A word is legal when it matches a row of the opcode table (R64 to R67). It is written from the table, apart from
`decode`. -/
def legalWord (w : Word) : Bool :=
  opcodeRows.any fun row => w &&& row.1 == row.2

/-- A written 8-bit operand is 0 to 255 (R74). -/
def byteOperandOk (n : Nat) : Bool := decide (n < 256)

/-- A written code or raw word is 0 to 65535 (R76, R78). -/
def wordOperandOk (n : Nat) : Bool := decide (n < 65536)

end Sys2Proof
end

