-- ==== Sys2Proof/Decode.lean ====
section
/-! DEFINITION. The command word's fields (30_encoding.md R63), the decoder (R68), total on all words, and after it the
encoder (R64). -/

namespace Sys2Proof

/-- `OPC`, bits [15:8] of the command word (R63). -/
def opcField (w : Word) : Byte := w.extractLsb' 8 8

/-- `OPD`, bits [7:0] of the command word (R63). -/
def opdField (w : Word) : Byte := w.extractLsb' 0 8

/-- `Decode` (R68): the command a word stands for, or none where the word is illegal. -/
def decode (w : Word) : Option Instr :=
  let op := opcField w
  let opd := opdField w
  if op = 0x02#8 then some (.encByte opd)
  else if op = 0x12#8 then some (.decByte opd)
  else if opd ≠ 0x00#8 then none
  else if op = 0x00#8 then some .nop
  else if op = 0x01#8 then some .encStart
  else if op = 0x03#8 then some .encEnd
  else if op = 0x11#8 then some .decStart
  else if op = 0x13#8 then some .decEnd
  else if op = 0x20#8 then some .abort
  else none

/-- The opcode of a command (R64). -/
def opcodeOf : Instr → Byte
  | .nop => 0x00#8
  | .encStart => 0x01#8
  | .encByte _ => 0x02#8
  | .encEnd => 0x03#8
  | .decStart => 0x11#8
  | .decByte _ => 0x12#8
  | .decEnd => 0x13#8
  | .abort => 0x20#8

/-- The operand byte of a command; 0 where the operand is reserved (R63, R66). -/
def operandOf : Instr → Byte
  | .encByte c => c
  | .decByte b => b
  | .nop | .encStart | .encEnd | .decStart | .decEnd | .abort => 0x00#8

/-- The word of a command: the opcode in bits [15:8], the operand in bits [7:0] (R63, R64). -/
def encode (i : Instr) : Word := opcodeOf i ++ operandOf i

/-- The decoder on a word numbered as the opcode table numbers it: a command is one 16-bit word, bit 0 its least
significant bit; the bits at and above `nbits` are 0. -/
def decodeTableWord (nbits w : Nat) : Option Instr :=
  decode (BitVec.ofNat 16 (w % 2 ^ nbits))

end Sys2Proof
end

