-- ==== Sys2Proof/Config.lean ====
section
/-! DEFINITION. What an implementation fixes and what the spec leaves open: each an opaque constant, no value of which
can be proved. -/

namespace Sys2Proof

/-- How many bytes deeper than the least allowed depth the output FIFO is (log 3). -/
opaque Config.outFifoSpare : Nat

/-- `OUT_FIFO_DEPTH`: "an integer of at least 2" (R6, 92_eei_decisions.md D17; log 3). -/
def Config.outFifoDepth : Nat := Config.outFifoSpare + 2

/-- What `PREFIX[k]` holds at code `k` after reset number `epoch`, before anything is written there (R40, R49; log 4). -/
opaque Config.prefixFill (epoch k : Nat) : Code

/-- What `SUFFIX[k]` holds at code `k` after reset number `epoch`, before anything is written there (R40, R49; log 4). -/
opaque Config.suffixFill (epoch k : Nat) : Byte

/-- What `FIRST[k]` holds at code `k` after reset number `epoch`, before anything is written there (R40, R49; log 4). -/
opaque Config.firstFill (epoch k : Nat) : Byte

/-- The bytes that stand for a code whose chain of prefixes does not descend to a root: `Str` is not defined there
(R45), and no reachable state holds such a chain (R30 item 7; log 5). -/
opaque Config.strayBytes (k : Nat) : List Byte

end Sys2Proof
end

