-- ==== Sys2Proof/Machine/State.lean ====
section
/-! DEFINITION. The state of the core: every piece of the state record of 10_state.md R15, the host's moves and the
timing draws as plain data, and the reset state (R40). -/

namespace Sys2Proof.Machine

open Sys2Proof

/-- `MODE` (R17); all four values of its two bits are legal. -/
inductive Mode where
  | idle
  | encode
  | decode
  | fault
  deriving DecidableEq, Repr

/-- `ERR` (R18). Its values 6 and 7 are never produced and have no constructor (log 14). -/
inductive ErrCode where
  /-- 0: no fault. -/
  | noError
  /-- 1: `DEC_END` with a half code held (R106). -/
  | malformedInput
  /-- 2: `DEC_BYTE` completing an invalid code (R107). -/
  | corruptData
  /-- 3: code 65536 would be assigned (R108). -/
  | capacityExceeded
  /-- 4: an undefined opcode or a non-zero reserved operand (R109). -/
  | illegalCommand
  /-- 5: a defined command not legal in `MODE` (R110). -/
  | sequenceError
  deriving DecidableEq, Repr

/-- One word of the dictionary table: `PREFIX[k]`, `SUFFIX[k]`, `FIRST[k]` (20_memory.md R42). -/
structure Entry where
  prefixCode : Code
  suffixByte : Byte
  firstByte : Byte
  deriving DecidableEq, Repr

/-- The dictionary table, the core's only memory: the codes written since the last reset with their entries, codes
strictly rising. -/
abbrev Memory := List (Nat × Entry)

/-- The register fields the host can read, less `BUSY` (R34 to R38). -/
structure View where
  mode : Mode
  err : ErrCode
  done : Bool
  outEmpty : Bool
  wValid : Bool
  halfValid : Bool
  halfByte : Byte
  dictSize : DictCount
  wCode : Code
  inCount : Word32
  outCount : Word32
  faultCmd : Word
  deriving DecidableEq, Repr

/-- The oracle's choice for a register read while a command is in progress, field by field: true takes the value after
the command, false the value before it (70_reset_and_hazards.md R128; log 9). -/
structure ReadPick where
  mode : Bool
  err : Bool
  done : Bool
  outEmpty : Bool
  wValid : Bool
  halfValid : Bool
  halfByte : Bool
  dictSize : Bool
  wCode : Bool
  inCount : Bool
  outCount : Bool
  faultCmd : Bool
  deriving DecidableEq, Repr

/-- One rising edge of `clk`: what the host drives on the ports of 20_memory.md R53 at it, and the draws of the timing
oracle (log 1, log 2, log 9). -/
structure Edge where
  /-- `rst` (R123). -/
  rst : Bool
  /-- `cmd_valid`: the host offers the head of `cmdq`, if there is one. -/
  cmdValid : Bool
  /-- `out_ready`. -/
  outReady : Bool
  /-- `reg_addr`. -/
  regAddr : BitVec 3
  /-- The timing oracle's draw at this edge: where the edge can start a new `BUSY` period, for how many edges with room
  in the output queue it holds `BUSY = 1` (R20, R130, R131). -/
  gap : Nat
  /-- The timing oracle's choice of the field values of a read while a command is in progress (R128). -/
  pick : ReadPick
  deriving DecidableEq, Repr

/-- The state of the core and, as plain data, of the agents around it. -/
structure State where
  /-- `MODE` (R17). -/
  mode : Mode
  /-- `ERR` (R18). -/
  err : ErrCode
  /-- `DONE` (R19). -/
  done : Bool
  /-- `W_VALID` (R21). -/
  wValid : Bool
  /-- `W_CODE` (R22). -/
  wCode : Code
  /-- `DICT_SIZE` (R23). -/
  dictSize : DictCount
  /-- `HALF_VALID` (R24). -/
  halfValid : Bool
  /-- `HALF_BYTE` (R25). -/
  halfByte : Byte
  /-- `FAULT_CMD` (R26). -/
  faultCmd : Word
  /-- `IN_COUNT` (R27). -/
  inCount : Word32
  /-- `OUT_COUNT` (R27). -/
  outCount : Word32
  /-- `OUTQ` (R28), head first. -/
  outq : List Byte
  /-- `PREFIX`, `SUFFIX`, `FIRST` (R42). -/
  dict : Memory
  /-- The model's own: how many resets there have been, so that the unspecified array contents are fresh after each (log 4). -/
  arrayEpoch : Nat
  /-- The model's own: for how many more edges with room in `OUTQ` the timing oracle holds `BUSY = 1` (log 2). -/
  busyLeft : Nat
  /-- The model's own: the register fields before the command in progress, none when none is (R128; log 9). -/
  inProgress : Option View
  /-- The host's command words not yet accepted, in the order it offers them (R53, R59; log 1). -/
  cmdq : List Word
  /-- The coming rising edges of `clk`, the next one first (log 1). -/
  edges : List Edge
  /-- `reg_rdata` as it stood at the last edge (R33, R53; log 8). -/
  regRdata : Word32
  /-- The byte that left on `out_data` at the last edge, if the host popped one there (R53, R54; log 8). -/
  outTaken : Option Byte
  /-- The model's own: the bytes the host popped since the operation's START, oldest first (R136; log 7). -/
  popped : List Byte
  deriving DecidableEq, Repr

/-- Why a step stops with a fault: never. Every fault of the core is an entry into FAULT mode, which is a next state
(R112), and "No step is ever refused or left without an outcome" (R99), so there is no constructor (log 13). -/
inductive Fault where
  deriving DecidableEq, Repr

/-- Why an instruction is refused. -/
inductive Refusal where
  /-- Raised by `exec` for an instruction that has no meaning yet; safe. No arm raises it now (log 13). -/
  | notModelled (mnemonic : String)
  deriving DecidableEq, Repr

/-- The machine right after reset (R40, R123), nothing offered and no edge scheduled. -/
def State.reset : State where
  mode := .idle
  err := .noError
  done := false
  wValid := false
  wCode := 0#16
  dictSize := 256#17
  halfValid := false
  halfByte := 0#8
  faultCmd := 0#16
  inCount := 0#32
  outCount := 0#32
  outq := []
  dict := []
  arrayEpoch := 0
  busyLeft := 0
  inProgress := none
  cmdq := []
  edges := []
  regRdata := 0#32
  outTaken := none
  popped := []

end Sys2Proof.Machine
end

