-- ==== Sys2Proof/Machine/Flags.lean ====
section
/-! DEFINITION. The status outputs and the register read map: BUSY (10_state.md R20), the port outputs that are functions
of the state (20_memory.md R53), the register words (R33 to R39) and reads while busy (70_reset_and_hazards.md R128). -/

namespace Sys2Proof.Machine

open Sys2Proof

/-- `BUSY` (R20): 1 whenever the queue is longer than `OUT_FIFO_DEPTH`, otherwise as the timing oracle draws (log 2). -/
def State.busy (s : State) : Bool :=
  decide (Config.outFifoDepth < s.outq.length) || decide (0 < s.busyLeft)

/-- `cmd_ready = NOT BUSY` (R53). -/
def State.cmdReady (s : State) : Bool := !s.busy

/-- `OUT_EMPTY`: 1 when `OUTQ` is empty (R34). -/
def State.outEmpty (s : State) : Bool := s.outq.isEmpty

/-- `out_valid`: a byte is available at the head of `OUTQ` (R53; log 10). -/
def State.outValid (s : State) : Bool := !s.outq.isEmpty

/-- `out_data`: the head byte of `OUTQ`, where there is one (R53). -/
def State.outData (s : State) : Option Byte := s.outq.head?

/-- The two bits of `MODE` (R17). -/
def modeBits : Mode → BitVec 2
  | .idle => 0#2
  | .encode => 1#2
  | .decode => 2#2
  | .fault => 3#2

/-- The three bits of `ERR` (R18). -/
def errBits : ErrCode → BitVec 3
  | .noError => 0#3
  | .malformedInput => 1#3
  | .corruptData => 2#3
  | .capacityExceeded => 3#3
  | .illegalCommand => 4#3
  | .sequenceError => 5#3

/-- A flag as one bit. -/
def flagBit (b : Bool) : BitVec 1 := if b then 1#1 else 0#1

/-- The register fields of a state, less `BUSY` (R34 to R38). -/
def State.view (s : State) : View where
  mode := s.mode
  err := s.err
  done := s.done
  outEmpty := s.outEmpty
  wValid := s.wValid
  halfValid := s.halfValid
  halfByte := s.halfByte
  dictSize := s.dictSize
  wCode := s.wCode
  inCount := s.inCount
  outCount := s.outCount
  faultCmd := s.faultCmd

/-- The STATUS word (R34), from bit 31 down: reserved, HALF_BYTE, reserved, HALF_VALID, W_VALID, OUT_EMPTY, BUSY, DONE,
ERR, MODE. -/
def statusWord (v : View) (busy : Bool) : Word32 :=
  0#8 ++ v.halfByte ++ 0#6 ++ flagBit v.halfValid ++ flagBit v.wValid ++ flagBit v.outEmpty ++ flagBit busy ++
    flagBit v.done ++ errBits v.err ++ modeBits v.mode

/-- The word at a register address (R33, R35 to R38); addresses 6 and 7 read 0 (R39). -/
def regWord (v : View) (busy : Bool) (addr : BitVec 3) : Word32 :=
  if addr = 0#3 then statusWord v busy
  else if addr = 1#3 then v.dictSize.setWidth 32
  else if addr = 2#3 then v.wCode.setWidth 32
  else if addr = 3#3 then v.inCount
  else if addr = 4#3 then v.outCount
  else if addr = 5#3 then v.faultCmd.setWidth 32
  else 0#32

/-- The fields a read sees while a command is in progress: each separately the value before or after it (R128). -/
def mixView (p : ReadPick) (before after : View) : View where
  mode := if p.mode then after.mode else before.mode
  err := if p.err then after.err else before.err
  done := if p.done then after.done else before.done
  outEmpty := if p.outEmpty then after.outEmpty else before.outEmpty
  wValid := if p.wValid then after.wValid else before.wValid
  halfValid := if p.halfValid then after.halfValid else before.halfValid
  halfByte := if p.halfByte then after.halfByte else before.halfByte
  dictSize := if p.dictSize then after.dictSize else before.dictSize
  wCode := if p.wCode then after.wCode else before.wCode
  inCount := if p.inCount then after.inCount else before.inCount
  outCount := if p.outCount then after.outCount else before.outCount
  faultCmd := if p.faultCmd then after.faultCmd else before.faultCmd

/-- The fields a read of the state sees (R128): those of the state itself unless `BUSY = 1` with a command in progress. -/
def State.readView (s : State) (p : ReadPick) : View :=
  match s.busy, s.inProgress with
  | true, some before => mixView p before s.view
  | _, _ => s.view

/-- `reg_rdata` for `reg_addr` (R33): `BUSY` itself is always current (R128). -/
def State.readReg (s : State) (p : ReadPick) (addr : BitVec 3) : Word32 :=
  regWord (s.readView p) s.busy addr

end Sys2Proof.Machine
end

