-- ==== Sys2Proof/Machine/Operands.lean ====
section
/-! DEFINITION. The operand forms: a root code from a byte, a packed code from its two bytes and back
(30_encoding.md R65, R70, R71). -/

namespace Sys2Proof.Machine

open Sys2Proof

/-- `zext_16(c)`: the root code of a byte (R7, R82). -/
def rootCode (c : Byte) : Code := c.setWidth 16

/-- `k[7:0]` (R70). -/
def codeLow (k : Code) : Byte := k.extractLsb' 0 8

/-- `k[15:8]` (R70). -/
def codeHigh (k : Code) : Byte := k.extractLsb' 8 8

/-- The two bytes of a code, low byte first (R56, R70). -/
def codeBytes (k : Code) : List Byte := [codeLow k, codeHigh k]

/-- `(zext_16(b) << 8) | zext_16(HALF_BYTE)`: the code whose low byte is `low` and whose high byte is `high` (R71). -/
def assembleCode (high low : Byte) : Code := (high.setWidth 16 <<< 8) ||| low.setWidth 16

end Sys2Proof.Machine
end

