-- ==== Sys2Proof/Machine/Ops.lean ====
section
/-! DEFINITION. The named operations: the dictionary table and its primitives (20_memory.md R42 to R49), Emit (R55), a
fresh start (R81, R90, R101), fault entry (60_exceptions.md R112), legality and the FAULT filter (R102, R114), the pop
(R54) and reset (R123). -/

namespace Sys2Proof.Machine

open Sys2Proof

/-! ## The dictionary table -/

/-- The canonical form of the table: codes strictly rising. -/
def Memory.wf : Memory → Bool
  | [] => true
  | [_] => true
  | a :: b :: rest => decide (a.1 < b.1) && Memory.wf (b :: rest)

/-- The entry written at code `k` since the last reset, if any. -/
def Memory.lookup : Memory → Nat → Option Entry
  | [], _ => none
  | (j, e) :: rest, k => if j = k then some e else Memory.lookup rest k

/-- The table with entry `e` at code `k`, in canonical form. -/
def Memory.set : Memory → Nat → Entry → Memory
  | [], k, e => [(k, e)]
  | (j, f) :: rest, k, e =>
    if k < j then (k, e) :: (j, f) :: rest
    else if k = j then (k, e) :: rest
    else (j, f) :: Memory.set rest k e

/-- What the array words at code `k` hold where nothing was written since the last reset: a free value (R49; log 4). -/
def fillEntry (epoch k : Nat) : Entry where
  prefixCode := Config.prefixFill epoch k
  suffixByte := Config.suffixFill epoch k
  firstByte := Config.firstFill epoch k

/-- `DictRead(k)`: `(PREFIX[k], SUFFIX[k], FIRST[k])` (R42). -/
def dictRead (s : State) (k : Nat) : Entry :=
  match Memory.lookup s.dict k with
  | some e => e
  | none => fillEntry s.arrayEpoch k

/-- `First(k)` (R43). -/
def firstOf (s : State) (k : Code) : Byte :=
  if k.toNat < 256 then codeLow k else (dictRead s k.toNat).firstByte

/-- The walk of `PREFIX` from a code to its root, last byte first, in front of the bytes already met (R45, R92). It takes
at most `fuel` stored entries; a chain that is longer than that does not descend (log 5). -/
def walkPrefixes (s : State) : (fuel : Nat) → (k : Code) → (met : List Byte) → List Byte
  | 0, k, met => Config.strayBytes k.toNat ++ met
  | fuel + 1, k, met =>
    if k.toNat < 256 then codeLow k :: met
    else walkPrefixes s fuel (dictRead s k.toNat).prefixCode ((dictRead s k.toNat).suffixByte :: met)

/-- `Str(k)` (R45). A chain that descends from `k` has fewer than `k` stored entries. -/
def strOf (s : State) (k : Code) : List Byte := walkPrefixes s (k.toNat + 1) k []

/-- Entry `k` stands for `Str(p) ++ [c]` (R44). -/
def entryMatches (s : State) (p : Code) (c : Byte) (k : Nat) : Bool :=
  (dictRead s k).prefixCode == p && (dictRead s k).suffixByte == c

/-- The stored codes of the dictionary: `256 <= k < DICT_SIZE`. -/
def storedCodes (s : State) : List Nat := List.range' 256 (s.dictSize.toNat - 256)

/-- `IndexLookup(p, c)` (R44): exact, over the entries below `DICT_SIZE` (log 6, log 22). -/
def indexLookup (s : State) (p : Code) (c : Byte) : Option Nat :=
  (storedCodes s).find? (entryMatches s p c)

/-- `DictInsert(p, c)` (R47); every caller checks `DICT_SIZE` first. -/
def dictInsert (p : Code) (c : Byte) (s : State) : State :=
  { s with
    dict := Memory.set s.dict s.dictSize.toNat
      { prefixCode := p, suffixByte := c, firstByte := firstOf s p }
    dictSize := s.dictSize + 1#17 }

/-- `DictSeed()` (R48): the arrays are left as they are. -/
def dictSeed (s : State) : State := { s with dictSize := 256#17 }

/-- The dictionary is full: `DICT_SIZE = 65536`, so code 65536 would be assigned next (R108). -/
def dictFull (s : State) : Bool := s.dictSize == 65536#17

/-! ## Output and counters -/

/-- `Emit(bs)` (R55). -/
def emit (bs : List Byte) (s : State) : State :=
  { s with
    outq := s.outq ++ bs
    outCount := s.outCount + BitVec.ofNat 32 bs.length }

/-- `EmitCode(k)` (R70). -/
def emitCode (k : Code) (s : State) : State := emit (codeBytes k) s

/-- One data byte taken: `IN_COUNT <- (IN_COUNT + 1) mod 2^32` (R27). -/
def countIn (s : State) : State := { s with inCount := s.inCount + 1#32 }

/-! ## Faults, fresh starts, legality -/

/-- Fault entry for the command word `cmd` (R112), on the state before the step: nothing else changes. -/
def raiseFault (cause : ErrCode) (cmd : Word) (s : State) : State :=
  { s with
    mode := .fault
    err := cause
    done := false
    faultCmd := cmd }

/-- What both STARTs and `ABORT` do, with the `MODE` they leave (R81, R90, R101): every register of R15 but the
arrays is written. It is also the only way out of a fault but reset (R115). `popped` starts anew with the operation
(log 7). -/
def freshStart (m : Mode) (s : State) : State :=
  dictSeed
    { s with
      mode := m
      err := .noError
      done := false
      faultCmd := 0#16
      wValid := false
      wCode := 0#16
      halfValid := false
      halfByte := 0#8
      inCount := 0#32
      outCount := 0#32
      outq := []
      popped := [] }

/-- `Legal(d, MODE)`, the table of R102; in FAULT mode the commands the filter of R114 lets through. -/
def legal : Instr → Mode → Bool
  | .nop, .idle | .nop, .encode | .nop, .decode => true
  | .nop, .fault => false
  | .encStart, _ => true
  | .encByte _, m => m == .encode
  | .encEnd, m => m == .encode
  | .decStart, _ => true
  | .decByte _, m => m == .decode
  | .decEnd, m => m == .decode
  | .abort, _ => true

/-- The core step on a decoded command (R99): in FAULT mode the filter performs it or drops it (R114); otherwise it is
performed where it is legal and raises SEQUENCE_ERROR where it is not (R110). -/
def performIfLegal (i : Instr) (act : State → State) (s : State) : State :=
  if legal i s.mode then act s
  else if s.mode = .fault then s
  else raiseFault .sequenceError (encode i) s

/-- The core step on an illegal word (R99): dropped in FAULT mode (R114), otherwise ILLEGAL_COMMAND (R109). -/
def takeIllegal (w : Word) (s : State) : State :=
  if s.mode = .fault then s else raiseFault .illegalCommand w s

/-! ## The other agents' steps -/

/-- A host pop (R54): the head byte of `OUTQ` is delivered; nothing happens where the queue is empty. -/
def popByte (s : State) : State :=
  match s.outq with
  | [] => s
  | b :: rest => { s with outq := rest, outTaken := some b, popped := s.popped ++ [b] }

/-- A reset edge (R123), with the oracle's draw for how long `BUSY` may stay 1 after it (R124, R130): the values of R40,
array contents unspecified anew (log 4), no command in progress (log 9). The host's own pending moves stay. -/
def resetCore (gap : Nat) (s : State) : State :=
  { s with
    mode := .idle
    err := .noError
    done := false
    wValid := false
    wCode := 0#16
    dictSize := 256#17
    halfValid := false
    halfByte := 0#8
    faultCmd := 0#16
    inCount := 0#32
    outCount := 0#32
    outq := []
    dict := []
    arrayEpoch := s.arrayEpoch + 1
    busyLeft := gap
    inProgress := none
    popped := [] }

end Sys2Proof.Machine
end

