-- ==== Sys2Proof/Machine/Control.lean ====
section
/-! DEFINITION. The control commands NOP and ABORT (42_control.md R100, R101). -/

namespace Sys2Proof.Machine

open Sys2Proof

/-- `NOP` (R100): no state is written. -/
def execNop (s : State) : Host.Outcome State Fault Refusal :=
  .next (performIfLegal .nop (fun t => t) s)

/-- `ABORT` (R101): legal in every `MODE`; back to IDLE with everything but the arrays as after reset. -/
def execAbort (s : State) : Host.Outcome State Fault Refusal :=
  .next (performIfLegal .abort (freshStart .idle) s)

end Sys2Proof.Machine
end

