-- ==== Sys2Proof/Machine/Decoder.lean ====
section
/-! DEFINITION. The decoder commands (41_decoder.md R90 to R93). -/

namespace Sys2Proof.Machine

open Sys2Proof

/-- `DEC_START` (R90): legal in every `MODE`. -/
def execDecStart (s : State) : Host.Outcome State Fault Refusal :=
  .next (performIfLegal .decStart (freshStart .decode) s)

/-- The fault a complete code raises, if any, checked before any write (R92, R107, R108). -/
def codeFault (k : Code) (s : State) : Option ErrCode :=
  if s.wValid then
    if s.dictSize.toNat < k.toNat then some .corruptData
    else if dictFull s then some .capacityExceeded
    else none
  else if 256 ≤ k.toNat then some .corruptData
  else none

/-- The entry a later code stands for: a known entry, or in the self-reference case `Str(W_CODE) ++ [First(W_CODE)]` (R92). -/
def decodedEntry (k : Code) (s : State) : List Byte :=
  if k.toNat < s.dictSize.toNat then strOf s k
  else strOf s s.wCode ++ [firstOf s s.wCode]

/-- `entry[0]`: `First(k)` for a known code, `First(W_CODE)` in the self-reference case (R92's corner cases; log 16). -/
def decodedFirst (k : Code) (s : State) : Byte :=
  if k.toNat < s.dictSize.toNat then firstOf s k else firstOf s s.wCode

/-- The writes of `DecodeCode(k)` where it raises no fault (R92). -/
def decodeCode (k : Code) (s : State) : State :=
  if s.wValid then
    { dictInsert s.wCode (decodedFirst k s) (emit (decodedEntry k s) s) with wCode := k }
  else
    { emit [codeLow k] s with wCode := k, wValid := true }

/-- What `DEC_BYTE b` does in DECODE mode (R91). -/
def takePackedByte (b : Byte) (s : State) : State :=
  if s.halfValid then
    match codeFault (assembleCode b s.halfByte) s with
    | some cause => raiseFault cause (encode (.decByte b)) s
    | none => countIn { decodeCode (assembleCode b s.halfByte) s with halfValid := false }
  else countIn { s with halfByte := b, halfValid := true }

/-- `DEC_BYTE b` (R91). -/
def execDecByte (b : Byte) (s : State) : Host.Outcome State Fault Refusal :=
  .next (performIfLegal (.decByte b) (takePackedByte b) s)

/-- What `DEC_END` does in DECODE mode (R93): an odd number of packed bytes raises MALFORMED_INPUT (R106). -/
def closeDecode (s : State) : State :=
  if s.halfValid then raiseFault .malformedInput (encode .decEnd) s
  else
    { s with
      wValid := false
      mode := .idle
      done := true }

/-- `DEC_END` (R93). -/
def execDecEnd (s : State) : Host.Outcome State Fault Refusal :=
  .next (performIfLegal .decEnd closeDecode s)

end Sys2Proof.Machine
end

