-- ==== Sys2Proof/Machine/Encoder.lean ====
section
/-! DEFINITION. The encoder commands (40_encoder.md R81, R82, R83). -/

namespace Sys2Proof.Machine

open Sys2Proof

/-- `ENC_START` (R81): legal in every `MODE`. -/
def execEncStart (s : State) : Host.Outcome State Fault Refusal :=
  .next (performIfLegal .encStart (freshStart .encode) s)

/-- A miss of `ENC_BYTE c` with room in the dictionary (R82): emit the code of `w`, insert `wc`, go on from `[c]`. -/
def encodeMiss (c : Byte) (s : State) : State :=
  { dictInsert s.wCode c (emitCode s.wCode s) with wCode := rootCode c }

/-- What `ENC_BYTE c` does in ENCODE mode (R82). -/
def takeInputByte (c : Byte) (s : State) : State :=
  if s.wValid then
    match indexLookup s s.wCode c with
    | some k => countIn { s with wCode := BitVec.ofNat 16 k }
    | none =>
      if dictFull s then raiseFault .capacityExceeded (encode (.encByte c)) s
      else countIn (encodeMiss c s)
  else countIn { s with wCode := rootCode c, wValid := true }

/-- `ENC_BYTE c` (R82). -/
def execEncByte (c : Byte) (s : State) : Host.Outcome State Fault Refusal :=
  .next (performIfLegal (.encByte c) (takeInputByte c) s)

/-- What `ENC_END` does in ENCODE mode (R83): flush `w`, close the operation. The flush counts its 2 bytes in `OUT_COUNT`,
as R83, R84 and R27's second bullet say; R27's fourth bullet and D31 say that `ENC_END` leaves `OUT_COUNT` unchanged, and
between the two the model follows R83 (DESIGN CHOICE, log 25). -/
def flushAndClose (s : State) : State :=
  { (if s.wValid then emitCode s.wCode s else s) with
    wValid := false
    mode := .idle
    done := true }

/-- `ENC_END` (R83). -/
def execEncEnd (s : State) : Host.Outcome State Fault Refusal :=
  .next (performIfLegal .encEnd flushAndClose s)

end Sys2Proof.Machine
end

