-- ==== Sys2Proof/Machine/Commands.lean ====
section
/-! DEFINITION. The core step on a command word (42_control.md R99), and a sequence of accepted words. -/

namespace Sys2Proof.Machine

open Sys2Proof

/-- `Step(cmd)` (R99), total on all words: a decoded command is performed, an illegal word is taken as R109 and R114 say. -/
def coreStep (w : Word) (s : State) : Host.Outcome State Fault Refusal :=
  match decode w with
  | some i => exec i s
  | none => .next (takeIllegal w s)

/-- The core steps of the words a host has accepted, in order, with nothing between them (R59). -/
def runWords : List Word → State → Host.Outcome State Fault Refusal
  | [], s => .next s
  | w :: rest, s =>
    match coreStep w s with
    | .next t => runWords rest t
    | .fault r => .fault r
    | .refused r => .refused r

end Sys2Proof.Machine
end

