-- ==== Sys2Proof/Machine/Ports.lean ====
section
/-! DEFINITION. One rising edge of `clk` as the ports see it (20_memory.md R53, 70_reset_and_hazards.md R123 to R133,
60_exceptions.md R111): the register read, reset, the pop, the acceptance of a command, `BUSY`. -/

namespace Sys2Proof.Machine

open Sys2Proof

/-- What a rising edge comes to: the edge is over, or a command word is accepted and the core step follows. -/
inductive EdgeAction where
  | settled (s : State)
  | accepted (w : Word) (s : State)
  deriving DecidableEq, Repr

/-- The edge is taken off the schedule, the register port is sampled, on the state before the edge, and no byte has left
on the output port yet (log 8). -/
def samplePorts (e : Edge) (rest : List Edge) (s : State) : State :=
  { s with
    edges := rest
    regRdata := s.readReg e.pick e.regAddr
    outTaken := none }

/-- The pop of an edge, where the host takes a byte (R54). -/
def popIfReady (e : Edge) (s : State) : State := if e.outReady then popByte s else s

/-- An edge on which `BUSY = 1`: no command is accepted; with room in the queue the oracle's hold runs down (R20, R127,
R131). `queued` is the queue's length at the edge (log 11). -/
def waitBusy (queued : Nat) (s : State) : State :=
  if Config.outFifoDepth < queued then s else { s with busyLeft := s.busyLeft - 1 }

/-- An edge on which `BUSY = 0` and no command is offered: no command is in progress any more (R60), and the oracle may
hold `BUSY` again (R20; log 2, log 9). -/
def restReady (gap : Nat) (s : State) : State :=
  { s with
    busyLeft := gap
    inProgress := none }

/-- A command word leaves the host's queue (R127), the registers before it are kept for reads while it is in progress
(R128), and the oracle draws how long `BUSY` may last (R20; log 2, log 9). -/
def acceptWord (gap : Nat) (rest : List Word) (s : State) : State :=
  { s with
    cmdq := rest
    busyLeft := gap
    inProgress := some s.view }

/-- The word offered at an edge: the head of the host's queue while `cmd_valid = 1` (R53, R127). -/
def offered (e : Edge) (s : State) : Option Word := if e.cmdValid then s.cmdq.head? else none

/-- One rising edge: `rst` wins, then the pop, then the command (R111, R53). With no edge scheduled there is no edge and
nothing changes (log 1). -/
def clockEdge (s : State) : EdgeAction :=
  match s.edges with
  | [] => .settled s
  | e :: rest =>
    if e.rst then .settled (resetCore e.gap (samplePorts e rest s))
    else if s.busy then .settled (waitBusy s.outq.length (popIfReady e (samplePorts e rest s)))
    else
      match offered e s with
      | none => .settled (restReady e.gap (popIfReady e (samplePorts e rest s)))
      | some w => .accepted w (acceptWord e.gap s.cmdq.tail (popIfReady e (samplePorts e rest s)))

/-- An edge that offers the head of `cmdq`, with no reset, no pop and no hold of `BUSY`. -/
def offerEdge : Edge where
  rst := false
  cmdValid := true
  outReady := false
  regAddr := 0#3
  gap := 0
  pick :=
    { mode := true, err := true, done := true, outEmpty := true, wValid := true, halfValid := true, halfByte := true,
      dictSize := true, wCode := true, inCount := true, outCount := true, faultCmd := true }

/-- The state in which the host offers `w` at the next edge and the core accepts it there: the word first in `cmdq`, an
edge that offers it, no hold of `BUSY`, and all but the last two bytes of `OUTQ` popped, since `OUT_FIFO_DEPTH >= 2` is
all that is known of it (log 15). -/
def placeCommand (w : Word) (s : State) : State :=
  { s with
    edges := offerEdge :: s.edges
    cmdq := w :: s.cmdq
    busyLeft := 0
    popped := s.popped ++ s.outq.take (s.outq.length - 2)
    outq := s.outq.drop (s.outq.length - 2) }

end Sys2Proof.Machine
end

