-- ==== Sys2Proof/Machine/Step.lean ====
section
/-! DEFINITION. The step of the machine: one rising edge of `clk`, with the core step of the command accepted at it
(20_memory.md R53, 42_control.md R99). -/

namespace Sys2Proof.Machine

open Sys2Proof

/-- One rising edge of `clk` (log 1). -/
def step (s : State) : Host.Outcome State Fault Refusal :=
  match clockEdge s with
  | .settled t => .next t
  | .accepted w t => coreStep w t

/-- The state with that command offered at the next edge (log 1, log 15): a command is one 16-bit word, so it stands for
the host's offer of the word `w`, its bits at and above `nbits` 0. -/
def State.withFetchWord (s : State) (nbits w : Nat) : State :=
  placeCommand (BitVec.ofNat 16 (w % 2 ^ nbits)) s

end Sys2Proof.Machine
end

