-- ==== Sys2Proof/Machine/Reference.lean ====
section
/-! DEFINITION. The functions the core computes, on byte strings and code lists alone: `compress_R` and `pack`
(40_encoder.md R79, R80), `decompress_R` and `decompress_bytes_R` (41_decoder.md R88, R89). -/

namespace Sys2Proof.Machine

open Sys2Proof

/-- The strings of the codes 256, 257, ... in order; the seed entries 0 to 255 are implicit, and the next unused code is
256 plus the length. -/
abbrev StringTable := List (List Byte)

/-- `n`, the source's `dict_size` (R79, R88). -/
def nextCode (d : StringTable) : Nat := 256 + d.length

/-- `D(w)` of the encoder, none where `w` is no key (R79). -/
def codeOfString (d : StringTable) : List Byte → Option Nat
  | [b] => some b.toNat
  | w => (d.findIdx? (· == w)).map (256 + ·)

/-- `D(k)` of the decoder, none where `k` is no key (R88). -/
def stringOfCode (d : StringTable) (k : Nat) : Option (List Byte) :=
  if k < 256 then some [BitVec.ofNat 8 k] else d[k - 256]?

/-- The variables of the encoder's loop: `D`, `w`, `out` (R79). -/
structure Compressor where
  table : StringTable
  work : List Byte
  out : List Code
  deriving DecidableEq, Repr

/-- Steps 1 and 2 of the encoder (R79). -/
def Compressor.start : Compressor where
  table := []
  work := []
  out := []

/-- `out ++ [D(w)]`; nothing is appended where `w` is no key, which does not happen (R79). -/
def Compressor.flush (m : Compressor) : List Code :=
  m.out ++ (codeOfString m.table m.work).toList.map (BitVec.ofNat 16)

/-- One iteration of step 3, none for CapacityExceeded (R79). -/
def Compressor.next (m : Compressor) (c : Byte) : Option Compressor :=
  if (codeOfString m.table (m.work ++ [c])).isSome then
    some { m with work := m.work ++ [c] }
  else if nextCode m.table = 65536 then none
  else
    some
      { table := m.table ++ [m.work ++ [c]]
        work := [c]
        out := m.flush }

/-- Step 3 over the bytes of the input (R79). -/
def Compressor.run (m : Compressor) : List Byte → Option Compressor
  | [] => some m
  | c :: rest =>
    match m.next c with
    | some m' => m'.run rest
    | none => none

/-- Step 4: the final flush of a non-empty `w` (R79). -/
def Compressor.finish (m : Compressor) : List Code := if m.work.isEmpty then m.out else m.flush

/-- `compress_R(x)`, none for CapacityExceeded (R79). -/
def compressR (x : List Byte) : Option (List Code) := (Compressor.start.run x).map Compressor.finish

/-- `pack(codes)` (R80). -/
def pack : List Code → List Byte
  | [] => []
  | k :: rest => codeBytes k ++ pack rest

/-- The variables of the decoder's loop: `D`, `w`, `result` (R88). -/
structure Decompressor where
  table : StringTable
  work : List Byte
  result : List Byte
  deriving DecidableEq, Repr

/-- Step 3: the first code (R88). -/
def Decompressor.first (k : Code) : Except ErrCode Decompressor :=
  if 256 ≤ k.toNat then .error .corruptData
  else .ok { table := [], work := [codeLow k], result := [codeLow k] }

/-- The entry of a later code: known, or the self-reference case `w ++ [w[0]]`, or none (R88). -/
def Decompressor.entryFor (m : Decompressor) (k : Code) : Option (List Byte) :=
  if k.toNat < nextCode m.table then stringOfCode m.table k.toNat
  else if k.toNat = nextCode m.table then some (m.work ++ m.work.take 1)
  else none

/-- One iteration of step 4 (R88). -/
def Decompressor.next (m : Decompressor) (k : Code) : Except ErrCode Decompressor :=
  match m.entryFor k with
  | none => .error .corruptData
  | some entry =>
    if nextCode m.table = 65536 then .error .capacityExceeded
    else
      .ok
        { table := m.table ++ [m.work ++ entry.take 1]
          work := entry
          result := m.result ++ entry }

/-- Step 4 over the later codes (R88). -/
def Decompressor.run (m : Decompressor) : List Code → Except ErrCode Decompressor
  | [] => .ok m
  | k :: rest =>
    match m.next k with
    | .ok m' => m'.run rest
    | .error c => .error c

/-- Steps 2 to 4 on a non-empty code list (R88). -/
def Decompressor.runAll (k0 : Code) (later : List Code) : Except ErrCode Decompressor :=
  match Decompressor.first k0 with
  | .ok m => m.run later
  | .error c => .error c

/-- `decompress_R(codes)` (R88). -/
def decompressR : List Code → Except ErrCode (List Byte)
  | [] => .ok []
  | k0 :: later =>
    match Decompressor.runAll k0 later with
    | .ok m => .ok m.result
    | .error c => .error c

/-- The codes of a packed buffer, a stray last byte left out (R71, R89). -/
def unpack : List Byte → List Code
  | low :: high :: rest => assembleCode high low :: unpack rest
  | _ => []

/-- `decompress_bytes_R(p)` (R89): a bad code is reported before an odd length. -/
def decompressBytesR (p : List Byte) : Except ErrCode (List Byte) :=
  match decompressR (unpack p) with
  | .error c => .error c
  | .ok r => if p.length % 2 = 1 then .error .malformedInput else .ok r

/-- The words of the pseudo-command `ENCODE` (R77, R84). -/
def encodeWords (x : List Byte) : List Word :=
  0x0100#16 :: (x.map fun c => 0x02#8 ++ c) ++ [0x0300#16]

/-- The words that decode a packed buffer (R94). -/
def decodeWords (p : List Byte) : List Word :=
  0x1100#16 :: (p.map fun b => 0x12#8 ++ b) ++ [0x1300#16]

end Sys2Proof.Machine
end

