-- ==== Sys2Proof/Machine/Assembler.lean ====
section
/-! DEFINITION. The assembler of 30_encoding.md R73 to R78: script lines, the words each expands to, and the reading of a
script's text. What the spec leaves open of the text is in log 18. -/

namespace Sys2Proof.Machine

open Sys2Proof

/-- The eight mnemonics of R64. -/
inductive Mnemonic where
  | nop
  | encStart
  | encByte
  | encEnd
  | decStart
  | decByte
  | decEnd
  | abort
  deriving DecidableEq, Repr

/-- One line of a script, its operands as they are written, in range or not (R73 to R78). -/
inductive ScriptLine where
  /-- A blank line, or one that holds only a comment (R73). -/
  | blank
  /-- A mnemonic with its operand, if one is written (R73, R74). -/
  | command (m : Mnemonic) (operand : Option Nat)
  /-- `ENC_STR "text"` (R75). -/
  | encStr (text : List Byte)
  /-- `DEC_CODE k` (R76). -/
  | decCode (k : Nat)
  /-- `DEC_BYTES b1, b2, ...` (R76). -/
  | decBytes (bs : List Nat)
  /-- `ENCODE "text"` (R77). -/
  | encodeText (text : List Byte)
  /-- `DECODE k1, ..., kn` (R77). -/
  | decodeCodes (ks : List Nat)
  /-- `.word v` (R78). -/
  | rawWord (v : Nat)
  deriving DecidableEq, Repr

/-! ## Expansion -/

/-- The words of `DEC_CODE` on a code: its low byte, then its high byte (R76). -/
def decCodeWords (k : Code) : List Word :=
  [encode (.decByte (codeLow k)), encode (.decByte (codeHigh k))]

/-- A byte command with a written operand: refused outside 0 to 255 (R74), and refused without an operand, as read from R64
and R74 (DEDUCED, log 18). -/
def byteCommand (make : Byte → Instr) : Option Nat → Option (List Word)
  | some n => if byteOperandOk n then some [encode (make (BitVec.ofNat 8 n))] else none
  | none => none

/-- An operand-less command: refused with an operand (R74). -/
def bareCommand (i : Instr) : Option Nat → Option (List Word)
  | none => some [encode i]
  | some _ => none

/-- The word of a mnemonic line (R73, R74). -/
def commandWords : Mnemonic → Option Nat → Option (List Word)
  | .nop => bareCommand .nop
  | .encStart => bareCommand .encStart
  | .encByte => byteCommand .encByte
  | .encEnd => bareCommand .encEnd
  | .decStart => bareCommand .decStart
  | .decByte => byteCommand .decByte
  | .decEnd => bareCommand .decEnd
  | .abort => bareCommand .abort

/-- The words of a line, none where the assembler refuses it (R73 to R78). -/
def expandLine : ScriptLine → Option (List Word)
  | .blank => some []
  | .command m operand => commandWords m operand
  | .encStr text => some (text.map fun c => encode (.encByte c))
  | .decCode k => if wordOperandOk k then some (decCodeWords (BitVec.ofNat 16 k)) else none
  | .decBytes bs =>
    if bs.all byteOperandOk then some (bs.map fun b => encode (.decByte (BitVec.ofNat 8 b))) else none
  | .encodeText text =>
    some (encode .encStart :: (text.map fun c => encode (.encByte c)) ++ [encode .encEnd])
  | .decodeCodes ks =>
    if ks.all wordOperandOk then
      some (encode .decStart :: (ks.flatMap fun k => decCodeWords (BitVec.ofNat 16 k)) ++ [encode .decEnd])
    else none
  | .rawWord v => if wordOperandOk v then some [BitVec.ofNat 16 v] else none

/-- The words of a script in order (R73); a script with a refused line writes none (log 18). -/
def expandScript : List ScriptLine → Option (List Word)
  | [] => some []
  | l :: rest =>
    match expandLine l, expandScript rest with
    | some ws, some more => some (ws ++ more)
    | _, _ => none

/-! ## Reading the text -/

/-- The characters that separate the parts of a line (log 18). -/
def isBlankChar (c : Char) : Bool := c.toNat == 32 || c.toNat == 9 || c.toNat == 13

/-- The line from its first character that is no separator. -/
def skipBlanks : List Char → List Char
  | [] => []
  | c :: rest => if isBlankChar c then skipBlanks rest else c :: rest

/-- Nothing but separators and a comment are left (R73). -/
def lineIsOver (cs : List Char) : Bool :=
  match skipBlanks cs with
  | [] => true
  | c :: _ => c.toNat == 59

/-- Capital letters for small ones: mnemonics are case-insensitive (R73). -/
def upperChar (c : Char) : Char :=
  if 97 ≤ c.toNat ∧ c.toNat ≤ 122 then Char.ofNat (c.toNat - 32) else c

/-- The first word of a line in capitals, and the rest of the line. R73 says of the mnemonics of R64 that they are
case-insensitive; that pseudo-commands and `.word` are so too is the model's DESIGN CHOICE (log 18). -/
def readName : List Char → List Char × List Char
  | [] => ([], [])
  | c :: rest =>
    if isBlankChar c || c.toNat == 59 then ([], c :: rest)
    else (upperChar c :: (readName rest).1, (readName rest).2)

/-- A decimal digit. -/
def decimalDigit (c : Char) : Option Nat :=
  if 48 ≤ c.toNat ∧ c.toNat ≤ 57 then some (c.toNat - 48) else none

/-- A hexadecimal digit, small or capital (DESIGN CHOICE, log 18). -/
def hexDigit (c : Char) : Option Nat :=
  if 48 ≤ c.toNat ∧ c.toNat ≤ 57 then some (c.toNat - 48)
  else if 65 ≤ c.toNat ∧ c.toNat ≤ 70 then some (c.toNat - 55)
  else if 97 ≤ c.toNat ∧ c.toNat ≤ 102 then some (c.toNat - 87)
  else none

/-- The number that the leading digits write, and what follows them. -/
def readDigits (base : Nat) (digit : Char → Option Nat) : (acc : Nat) → List Char → Nat × List Char
  | acc, [] => (acc, [])
  | acc, c :: rest =>
    match digit c with
    | some d => readDigits base digit (acc * base + d) rest
    | none => (acc, c :: rest)

/-- A decimal or `0x` hexadecimal number (R74, R76). That one or more digits may follow `0x`, fewer or more than the rules
write, is the model's DESIGN CHOICE (log 18). -/
def readNumber : List Char → Option (Nat × List Char)
  | '0' :: 'x' :: c :: rest =>
    if (hexDigit c).isSome then some (readDigits 16 hexDigit 0 (c :: rest)) else none
  | c :: rest =>
    if (decimalDigit c).isSome then some (readDigits 10 decimalDigit 0 (c :: rest)) else none
  | [] => none

/-- A printable ASCII character (R74, R75). -/
def isPrintable (c : Char) : Bool := decide (0x20 ≤ c.toNat) && decide (c.toNat ≤ 0x7E)

/-- An 8-bit operand: a number, or a character literal for its ASCII code (R74). -/
def readByteOperand : List Char → Option (Nat × List Char)
  | q :: c :: q' :: rest =>
    if q.toNat = 39 then
      if isPrintable c && c.toNat != 39 && c.toNat != 92 && q'.toNat == 39 then some (c.toNat, rest) else none
    else readNumber (q :: c :: q' :: rest)
  | cs => readNumber cs

/-- The text after an opening quote, up to the closing one, and what follows (R75). -/
def readText : List Char → Option (List Byte × List Char)
  | [] => none
  | '\\' :: 'x' :: h :: l :: rest =>
    match hexDigit h, hexDigit l, readText rest with
    | some a, some b, some (text, after) => some (BitVec.ofNat 8 (16 * a + b) :: text, after)
    | _, _, _ => none
  | c :: rest =>
    if c.toNat = 34 then some ([], rest)
    else if isPrintable c && c.toNat != 92 then
      match readText rest with
      | some (text, after) => some (BitVec.ofNat 8 c.toNat :: text, after)
      | none => none
    else none

/-- A quoted text (R75). -/
def readQuoted : List Char → Option (List Byte × List Char)
  | q :: rest => if q.toNat = 34 then readText rest else none
  | [] => none

/-- One or more operands separated by commas, at most `fuel` of them. -/
def readList (one : List Char → Option (Nat × List Char)) : (fuel : Nat) → List Char → Option (List Nat × List Char)
  | 0, _ => none
  | fuel + 1, cs =>
    match one (skipBlanks cs) with
    | none => none
    | some (n, after) =>
      match skipBlanks after with
      | ',' :: more =>
        match readList one fuel more with
        | some (ns, rest) => some (n :: ns, rest)
        | none => none
      | rest => some ([n], rest)

/-- An operand that must end its line. -/
def wholeLine {α : Type} (read : Option (α × List Char)) (make : α → ScriptLine) : Option ScriptLine :=
  match read with
  | some (a, rest) => if lineIsOver rest then some (make a) else none
  | none => none

/-- A mnemonic with an operand or none (R73). -/
def readCommand (m : Mnemonic) (cs : List Char) : Option ScriptLine :=
  if lineIsOver cs then some (.command m none)
  else wholeLine (readByteOperand (skipBlanks cs)) fun n => .command m (some n)

/-- A line by its first word, in capitals, and what follows it (R73 to R78). R78 gives only the range of the value of
`.word`: that it is written in decimal or `0x` hexadecimal, and not as a character literal, is the model's DESIGN CHOICE
(log 18). -/
def readLineAs (name : List Char) (cs : List Char) : Option ScriptLine :=
  if name = ['N', 'O', 'P'] then readCommand .nop cs
  else if name = ['E', 'N', 'C', '_', 'S', 'T', 'A', 'R', 'T'] then readCommand .encStart cs
  else if name = ['E', 'N', 'C', '_', 'B', 'Y', 'T', 'E'] then readCommand .encByte cs
  else if name = ['E', 'N', 'C', '_', 'E', 'N', 'D'] then readCommand .encEnd cs
  else if name = ['D', 'E', 'C', '_', 'S', 'T', 'A', 'R', 'T'] then readCommand .decStart cs
  else if name = ['D', 'E', 'C', '_', 'B', 'Y', 'T', 'E'] then readCommand .decByte cs
  else if name = ['D', 'E', 'C', '_', 'E', 'N', 'D'] then readCommand .decEnd cs
  else if name = ['A', 'B', 'O', 'R', 'T'] then readCommand .abort cs
  else if name = ['E', 'N', 'C', '_', 'S', 'T', 'R'] then wholeLine (readQuoted (skipBlanks cs)) .encStr
  else if name = ['E', 'N', 'C', 'O', 'D', 'E'] then wholeLine (readQuoted (skipBlanks cs)) .encodeText
  else if name = ['D', 'E', 'C', '_', 'C', 'O', 'D', 'E'] then wholeLine (readNumber (skipBlanks cs)) .decCode
  else if name = ['D', 'E', 'C', '_', 'B', 'Y', 'T', 'E', 'S'] then
    wholeLine (readList readByteOperand cs.length cs) .decBytes
  else if name = ['D', 'E', 'C', 'O', 'D', 'E'] then
    if lineIsOver cs then some (.decodeCodes []) else wholeLine (readList readNumber cs.length cs) .decodeCodes
  else if name = ['.', 'W', 'O', 'R', 'D'] then wholeLine (readNumber (skipBlanks cs)) .rawWord
  else none

/-- One line of text: `MNEMONIC [operand] [; comment]`, a pseudo-command, `.word`, or nothing (R73). -/
def readLine (cs : List Char) : Option ScriptLine :=
  if lineIsOver cs then some .blank
  else readLineAs (readName (skipBlanks cs)).1 (readName (skipBlanks cs)).2

/-- The lines of a script's text: the first line and the ones after it. -/
def splitLines : List Char → List (List Char)
  | [] => [[]]
  | c :: rest =>
    if c.toNat = 10 then [] :: splitLines rest
    else
      match splitLines rest with
      | line :: more => (c :: line) :: more
      | [] => [[c]]

/-- The assembler (R73): the words of a script, none where it is refused. -/
def assemble (text : List Char) : Option (List Word) :=
  match (splitLines text).mapM readLine with
  | some ls => expandScript ls
  | none => none

end Sys2Proof.Machine
end

