-- ==== Sys2Proof/Machine/Invariant.lean ====
section
/-! DEFINITION. The invariants of 10_state.md R30, and the forms of the model's own state that go with them. -/

namespace Sys2Proof.Machine

open Sys2Proof

/-- R30 items 1 to 4 and 8: how `MODE` goes with `ERR`, `DONE`, `W_VALID`, `HALF_VALID` and `FAULT_CMD`. -/
def State.ControlOk (s : State) : Prop :=
  (s.err ≠ .noError ↔ s.mode = .fault) ∧
  (s.done = true → s.mode = .idle) ∧
  (s.mode = .idle → s.wValid = false ∧ s.halfValid = false) ∧
  (s.halfValid = true → s.mode = .decode ∨ s.mode = .fault) ∧
  (s.mode = .fault → s.faultCmd ≠ 0#16) ∧
  (s.mode ≠ .fault → s.faultCmd = 0#16)

/-- R30 items 5 to 7: the range of `DICT_SIZE`, `W_CODE` below it, and every stored entry above its prefix with its
prefix's first byte. -/
def State.DictOk (s : State) : Prop :=
  (256 ≤ s.dictSize.toNat ∧ s.dictSize.toNat ≤ 65536) ∧
  (s.wValid = true → s.wCode.toNat < s.dictSize.toNat) ∧
  (∀ k, 256 ≤ k → k < s.dictSize.toNat →
    (dictRead s k).prefixCode.toNat < k ∧ (dictRead s k).firstByte = firstOf s (dictRead s k).prefixCode)

/-- `Str` is injective on `0..DICT_SIZE-1` (R50). -/
def State.StrInjective (s : State) : Prop :=
  ∀ j k : Code, j.toNat < s.dictSize.toNat → k.toNat < s.dictSize.toNat → strOf s j = strOf s k → j = k

/-- R30 items 10 and 11, with the number D of codes decoded read off `IN_COUNT` and the number E of codes emitted read
off `OUT_COUNT` (log 20), and `W_VALID` and `HALF_VALID` of R21 and R24 in DECODE mode. -/
def State.CountsOk (s : State) : Prop :=
  (s.mode = .decode →
    s.dictSize.toNat = 256 + (s.inCount.toNat / 2 - 1) ∧
    (s.wValid = true ↔ 2 ≤ s.inCount.toNat) ∧
    (s.halfValid = true ↔ s.inCount.toNat % 2 = 1)) ∧
  (s.mode = .encode → s.outCount.toNat = 2 * (s.dictSize.toNat - 256))

/-- The model's own state: the table in canonical form with codes 256 to 65535, and `OUT_COUNT` the number of bytes the
operation emitted, popped or not (R27, R55; log 7, log 25). -/
def State.FormOk (s : State) : Prop :=
  Memory.wf s.dict = true ∧
  (∀ p ∈ s.dict, 256 ≤ p.1 ∧ p.1 < 65536) ∧
  s.outCount = BitVec.ofNat 32 (s.popped.length + s.outq.length)

/-- The invariant of the machine: R30, item 9 in ENCODE mode. -/
def State.Inv (s : State) : Prop :=
  s.ControlOk ∧ s.DictOk ∧ (s.mode = .encode → s.StrInjective) ∧ s.CountsOk ∧ s.FormOk

/-- Two states with the same registers of R15 whose operation has emitted the same bytes so far, whatever the host popped
of them and whatever the timing and the pending moves (R59). -/
def State.SameCore (s t : State) : Prop :=
  s.mode = t.mode ∧ s.err = t.err ∧ s.done = t.done ∧ s.wValid = t.wValid ∧ s.wCode = t.wCode ∧
  s.dictSize = t.dictSize ∧ s.halfValid = t.halfValid ∧ s.halfByte = t.halfByte ∧ s.faultCmd = t.faultCmd ∧
  s.inCount = t.inCount ∧ s.outCount = t.outCount ∧ s.popped ++ s.outq = t.popped ++ t.outq ∧
  s.dict = t.dict ∧ s.arrayEpoch = t.arrayEpoch

/-- Two states with the same registers of R15 and the same dictionary, whose arrays may differ at codes at and above
`DICT_SIZE` (R49, R87). -/
def State.SameButLeftovers (s t : State) : Prop :=
  s.mode = t.mode ∧ s.err = t.err ∧ s.done = t.done ∧ s.wValid = t.wValid ∧ s.wCode = t.wCode ∧
  s.dictSize = t.dictSize ∧ s.halfValid = t.halfValid ∧ s.halfByte = t.halfByte ∧ s.faultCmd = t.faultCmd ∧
  s.inCount = t.inCount ∧ s.outCount = t.outCount ∧ s.outq = t.outq ∧ s.popped = t.popped ∧
  (∀ k, 256 ≤ k → k < s.dictSize.toNat → dictRead s k = dictRead t k)

end Sys2Proof.Machine
end

