-- ==== Sys2Proof/Safety.lean ====
section
/-! DEFINITION. What a finished operation is and what its result is (70_reset_and_hazards.md R136, 60_exceptions.md
R116). -/

namespace Sys2Proof.Safety

open Sys2Proof Sys2Proof.Machine

/-- Success (R136): `MODE = IDLE` and `DONE = 1`, seen with `BUSY = 0`. -/
def succeeded (s : State) : Bool := !s.busy && s.mode == .idle && s.done

/-- Failure (R136): `MODE = FAULT`, seen with `BUSY = 0`. R136 speaks of the end of an operation; that a FAULT entered with
no operation open, from IDLE, counts as a failure too is the model's DESIGN CHOICE (log 26). -/
def failed (s : State) : Bool := !s.busy && s.mode == .fault

/-- The result of an operation (R136, R116): what the host popped since its START, followed by what is still in `OUTQ`,
and only on success. -/
def result (s : State) : Option (List Byte) :=
  if succeeded s then some (s.popped ++ s.outq) else none

end Sys2Proof.Safety
end

