-- ==== Sys2Proof/Certificates/Slice0/Obligations.lean ====
section
/-! DEFINITION. The statements for the provers: what the spec's numbered rules say the commands, the ports and the
dictionary do. -/

open Sys2Proof Sys2Proof.Machine

/-! ## Words of the statements -/

/-- The state after fault entry, field by field (R112). -/
def Sys2Proof.Claims.faulted (cause : ErrCode) (cmd : Word) (s : State) : State :=
  { s with mode := .fault, err := cause, done := false, faultCmd := cmd }

/-- What a START or `ABORT` that leaves `MODE = m` makes of the registers of R15 (R81, R90, R101): all of them are written
but the arrays, which stay. -/
def Sys2Proof.Claims.StartedAfresh (m : Mode) (s t : State) : Prop :=
  t.mode = m ∧ t.err = .noError ∧ t.done = false ∧ t.faultCmd = 0#16 ∧ t.wValid = false ∧ t.wCode = 0#16 ∧
  t.halfValid = false ∧ t.halfByte = 0#8 ∧ t.inCount = 0#32 ∧ t.outCount = 0#32 ∧ t.outq = [] ∧
  t.dictSize = 256#17 ∧ ∀ k, dictRead t k = dictRead s k

/-- The host's side and the timing side of two states are the same. -/
def Sys2Proof.Claims.HostSideSame (s t : State) : Prop :=
  t.cmdq = s.cmdq ∧ t.edges = s.edges ∧ t.busyLeft = s.busyLeft ∧ t.inProgress = s.inProgress ∧
  t.regRdata = s.regRdata ∧ t.outTaken = s.outTaken ∧ t.arrayEpoch = s.arrayEpoch

/-- The registers of R15 hold their reset values (R40). -/
def Sys2Proof.Claims.ResetValues (s : State) : Prop :=
  s.mode = .idle ∧ s.err = .noError ∧ s.done = false ∧ s.wValid = false ∧ s.wCode = 0#16 ∧ s.dictSize = 256#17 ∧
  s.halfValid = false ∧ s.halfByte = 0#8 ∧ s.faultCmd = 0#16 ∧ s.inCount = 0#32 ∧ s.outCount = 0#32 ∧ s.outq = []

open Sys2Proof.Claims

/-! ## Encoding -/

/-- Every command decodes from its own word with its operand at every value, and a legal word is the word of the command
it decodes to: no bit is dropped (R63 to R65, R68). -/
def Obligations.DecodeAndEncodeAgree : Prop :=
  (∀ i : Instr, decode (encode i) = some i) ∧ ∀ (w : Word) (i : Instr), decode w = some i → encode i = w

/-- The decoder refuses exactly the undefined opcodes and the non-zero reserved operands, which are also exactly the words
no row of the opcode table matches (R64, R66, R67). -/
def Obligations.IllegalWordsAreTheUndefinedOnes : Prop :=
  ∀ w : Word,
    (decode w = none ↔
      (opcField w ∉ [0x00#8, 0x01#8, 0x02#8, 0x03#8, 0x11#8, 0x12#8, 0x13#8, 0x20#8] ∨
        (opcField w ∈ [0x00#8, 0x01#8, 0x03#8, 0x11#8, 0x13#8, 0x20#8] ∧ opdField w ≠ 0x00#8))) ∧
    (decode w = none ↔ legalWord w = false)

/-- Words written out from the opcode map decode as the map says (R64, R66, R67; 95_test_vectors.md section 4). -/
def Obligations.SampleWordsDecode : Prop :=
  decode 0x0000#16 = some .nop ∧ decode 0x0001#16 = none ∧ decode 0x0100#16 = some .encStart ∧
  decode 0x0180#16 = none ∧ decode 0x0200#16 = some (.encByte 0x00#8) ∧ decode 0x02FF#16 = some (.encByte 0xFF#8) ∧
  decode 0x0300#16 = some .encEnd ∧ decode 0x0400#16 = none ∧ decode 0x1000#16 = none ∧
  decode 0x1100#16 = some .decStart ∧ decode 0x12AB#16 = some (.decByte 0xAB#8) ∧ decode 0x1300#16 = some .decEnd ∧
  decode 0x1301#16 = none ∧ decode 0x1400#16 = none ∧ decode 0x2000#16 = some .abort ∧ decode 0x2001#16 = none ∧
  decode 0x2100#16 = none ∧ decode 0xFFFF#16 = none

/-- The two bytes of a code, low byte first, assemble back to it, and an unpacked buffer is the list of its codes (R70,
R71, R80). -/
def Obligations.PackedCodesAssembleBack : Prop :=
  (∀ k : Code, codeBytes k = [k.extractLsb' 0 8, k.extractLsb' 8 8] ∧ assembleCode (codeHigh k) (codeLow k) = k) ∧
  ∀ ks : List Code, unpack (pack ks) = ks ∧ (pack ks).length = 2 * ks.length

/-! ## The step and the ports -/

/-- At an edge with `rst = 0`, `cmd_valid = 1` and `cmd_ready = 1` the head of the host's queue is accepted; when it
decodes to a command, the step is `exec` of it, after the port sample and the pop of the same edge, the word taken off
the queue; an illegal word is taken as one (R53, R99, R111). The reading of the ports is log 8, log 9. -/
def Obligations.AcceptedWordRunsItsCommand : Prop :=
  ∀ (s : State) (e : Edge) (rest : List Edge) (w : Word) (ws : List Word),
    s.edges = e :: rest → e.rst = false → e.cmdValid = true → s.cmdq = w :: ws → s.busy = false →
    (∀ i, decode w = some i →
      step s = exec i (acceptWord e.gap ws (popIfReady e (samplePorts e rest s)))) ∧
    (decode w = none →
      step s = .next (takeIllegal w (acceptWord e.gap ws (popIfReady e (samplePorts e rest s)))))

/-- A word placed for the next step runs there, from any state, on a state with the same registers (log 15). -/
def Obligations.PlacedWordRunsNext : Prop :=
  ∀ (s : State) (w : Nat), ∃ u : State,
    State.SameCore u s ∧ step (s.withFetchWord 16 w) = coreStep (BitVec.ofNat 16 w) u

/-- Every word has an outcome in every state, and so has every edge (R99). -/
def Obligations.EveryWordAndEdgeHasAnOutcome : Prop :=
  (∀ (w : Word) (s : State), ∃ t, coreStep w s = .next t) ∧ ∀ s : State, ∃ t, step s = .next t

/-- While `BUSY = 1` a command waits: at an edge with `rst = 0` the queue of commands and every register stay,
whatever is popped (R127, R133). That `BUSY` is the one before the pop, so that the command waits also at the edge whose
pop brings `OUTQ` down to `OUT_FIFO_DEPTH`, is the model's choice (log 11); the queue and the edges are the model's form
of the host (log 1), and the ledger of popped bytes is its own (log 7). -/
def Obligations.BusyEdgeHoldsTheCommand : Prop :=
  ∀ (s : State) (e : Edge) (rest : List Edge),
    s.edges = e :: rest → e.rst = false → s.busy = true →
    ∃ t, step s = .next t ∧ t.cmdq = s.cmdq ∧ t.edges = rest ∧ State.SameCore s t

/-- At an edge that accepts nothing and is no reset, no register and no dictionary entry changes, and the
operation's bytes, popped or queued, stay the same (R54, R59). That `BUSY` is the one before the pop of the edge is the
model's choice (log 11); the queue and the edges are the model's form of the host (log 1), and the ledger of popped bytes
is its own (log 7). -/
def Obligations.EdgeWithoutCommandKeepsTheRegisters : Prop :=
  ∀ (s : State) (e : Edge) (rest : List Edge),
    s.edges = e :: rest → e.rst = false → (e.cmdValid = false ∨ s.cmdq = [] ∨ s.busy = true) →
    ∃ t, step s = .next t ∧ t.cmdq = s.cmdq ∧ t.edges = rest ∧ State.SameCore s t

/-- A host pop removes the head byte of `OUTQ` and delivers it, only when `OUTQ` is non-empty, and changes no
register of R15 otherwise (R54). The latch of the delivered byte and the ledger are the model's own (log 7, log 8). -/
def Obligations.PopDeliversTheHead : Prop :=
  ∀ s : State,
    (∀ b rest, s.outq = b :: rest →
      popByte s = { s with outq := rest, outTaken := some b, popped := s.popped ++ [b] }) ∧
    (s.outq = [] → popByte s = s)

/-- A pop and a command accepted at the same edge are ordered pop first: the byte delivered is the head of the queue
before the command, whatever the command is (R111). The latch of the delivered byte is the model's own (log 8). -/
def Obligations.PopComesBeforeTheCommand : Prop :=
  ∀ (s t : State) (e : Edge) (rest : List Edge) (b : Byte) (q : List Byte),
    s.edges = e :: rest → e.rst = false → e.outReady = true → s.outq = b :: q → step s = .next t →
    t.outTaken = some b

/-- At an edge with `rst = 1` every register takes its reset value, no command is accepted and no byte is delivered,
whatever else the edge offers (R40, R111, R123). The latch and the queue of commands are the model's own (log 1, log
8). -/
def Obligations.ResetEdgeTakesTheResetValues : Prop :=
  ∀ (s : State) (e : Edge) (rest : List Edge),
    s.edges = e :: rest → e.rst = true →
    ∃ t, step s = .next t ∧ ResetValues t ∧ t.cmdq = s.cmdq ∧ t.edges = rest ∧ t.outTaken = none

/-- The reset state holds the values of R40 and reads as R34 to R39 say: STATUS with OUT_EMPTY alone, DICTSZ 256, every
other address 0. -/
def Obligations.ResetStateReadsAsTheRulesSay : Prop :=
  ResetValues State.reset ∧
  ∀ a : BitVec 3, regWord State.reset.view false a =
    if a = 0#3 then 0x00000080#32 else if a = 1#3 then 0x00000100#32 else 0x00000000#32

/-- `BUSY = 1` whenever the queue is longer than `OUT_FIFO_DEPTH`, which is at least 2, so `cmd_ready = 0` (R6, R20,
R53). Its value is free (log 3). -/
def Obligations.LongQueueIsBusy : Prop :=
  2 ≤ Config.outFifoDepth ∧
  ∀ s : State, Config.outFifoDepth < s.outq.length → s.busy = true ∧ s.cmdReady = false

/-- With room in the queue and no reset, `BUSY` falls within the number of edges the oracle drew (R131). The form of
the draw is the model's own (log 2). -/
def Obligations.BusyFallsInFiniteTime : Prop :=
  ∀ s : State,
    s.outq.length ≤ Config.outFifoDepth → s.busyLeft ≤ s.edges.length →
    (∀ e ∈ s.edges.take s.busyLeft, e.rst = false) →
    ∃ t, Host.Core.run Sys2Proof.core s.busyLeft s = .next t ∧ t.busy = false ∧ t.cmdq = s.cmdq

/-- A register read has no side effect: states that differ only in what is read at the next edge, and how the oracle
mixes it, step to states that differ only in the word read (R33, R58). The latched word is the model's own form of
the port (log 8). -/
def Obligations.ReadsHaveNoSideEffect : Prop :=
  ∀ (s t u : State) (e : Edge) (rest : List Edge) (addr : BitVec 3) (p : ReadPick),
    s.edges = e :: rest → step s = .next t →
    step { s with edges := { e with regAddr := addr, pick := p } :: rest } = .next u →
    { u with regRdata := t.regRdata } = t

/-- A read with `BUSY = 0` returns the current state's fields; a read with `BUSY = 1` while a command is in progress
returns for each field the value before or after that command, `BUSY` itself current (R58, R128). When a command
counts as in progress is the model's choice (log 9). -/
def Obligations.ReadWhileBusyIsBeforeOrAfter : Prop :=
  ∀ (s : State) (p : ReadPick),
    (s.busy = false → s.readView p = s.view) ∧
    (∀ v, s.busy = true → s.inProgress = some v →
      ((s.readView p).mode = v.mode ∨ (s.readView p).mode = s.mode) ∧
      ((s.readView p).err = v.err ∨ (s.readView p).err = s.err) ∧
      ((s.readView p).done = v.done ∨ (s.readView p).done = s.done) ∧
      ((s.readView p).outEmpty = v.outEmpty ∨ (s.readView p).outEmpty = s.outq.isEmpty) ∧
      ((s.readView p).wValid = v.wValid ∨ (s.readView p).wValid = s.wValid) ∧
      ((s.readView p).halfValid = v.halfValid ∨ (s.readView p).halfValid = s.halfValid) ∧
      ((s.readView p).halfByte = v.halfByte ∨ (s.readView p).halfByte = s.halfByte) ∧
      ((s.readView p).dictSize = v.dictSize ∨ (s.readView p).dictSize = s.dictSize) ∧
      ((s.readView p).wCode = v.wCode ∨ (s.readView p).wCode = s.wCode) ∧
      ((s.readView p).inCount = v.inCount ∨ (s.readView p).inCount = s.inCount) ∧
      ((s.readView p).outCount = v.outCount ∨ (s.readView p).outCount = s.outCount) ∧
      ((s.readView p).faultCmd = v.faultCmd ∨ (s.readView p).faultCmd = s.faultCmd)) ∧
    (s.readReg p 0#3).extractLsb' 6 1 = (if s.busy then 1#1 else 0#1)

/-- The fields of STATUS stand where the table puts them, with the numbers of R17 and R18, and its reserved bits read 0
(R34, R39). -/
def Obligations.StatusFieldsStandAtTheirBits : Prop :=
  ∀ (v : View) (busy : Bool),
    (regWord v busy 0#3).extractLsb' 0 2 =
      (match v.mode with
        | .idle => 0#2
        | .encode => 1#2
        | .decode => 2#2
        | .fault => 3#2) ∧
    (regWord v busy 0#3).extractLsb' 2 3 =
      (match v.err with
        | .noError => 0#3
        | .malformedInput => 1#3
        | .corruptData => 2#3
        | .capacityExceeded => 3#3
        | .illegalCommand => 4#3
        | .sequenceError => 5#3) ∧
    (regWord v busy 0#3).extractLsb' 5 1 = (if v.done then 1#1 else 0#1) ∧
    (regWord v busy 0#3).extractLsb' 6 1 = (if busy then 1#1 else 0#1) ∧
    (regWord v busy 0#3).extractLsb' 7 1 = (if v.outEmpty then 1#1 else 0#1) ∧
    (regWord v busy 0#3).extractLsb' 8 1 = (if v.wValid then 1#1 else 0#1) ∧
    (regWord v busy 0#3).extractLsb' 9 1 = (if v.halfValid then 1#1 else 0#1) ∧
    (regWord v busy 0#3).extractLsb' 10 6 = 0#6 ∧
    (regWord v busy 0#3).extractLsb' 16 8 = v.halfByte ∧
    (regWord v busy 0#3).extractLsb' 24 8 = 0#8

/-- The other register addresses: DICTSZ, WCODE, INCNT, OUTCNT, FAULTCMD in their low bits with 0 above, and 6 and 7
read 0 (R35 to R39). -/
def Obligations.OtherRegistersReadTheirField : Prop :=
  ∀ (v : View) (busy : Bool),
    ((regWord v busy 1#3).extractLsb' 0 17 = v.dictSize ∧ (regWord v busy 1#3).extractLsb' 17 15 = 0#15) ∧
    ((regWord v busy 2#3).extractLsb' 0 16 = v.wCode ∧ (regWord v busy 2#3).extractLsb' 16 16 = 0#16) ∧
    regWord v busy 3#3 = v.inCount ∧ regWord v busy 4#3 = v.outCount ∧
    ((regWord v busy 5#3).extractLsb' 0 16 = v.faultCmd ∧ (regWord v busy 5#3).extractLsb' 16 16 = 0#16) ∧
    regWord v busy 6#3 = 0#32 ∧ regWord v busy 7#3 = 0#32

/-! ## Faults -/

/-- ILLEGAL_COMMAND is raised, outside FAULT mode, by every word `Decode` refuses, in IDLE, ENCODE and DECODE alike (R109). -/
def Obligations.IllegalWordRaisesIllegalCommand : Prop :=
  ∀ (w : Word) (s : State), decode w = none → s.mode ≠ .fault →
    coreStep w s = .next (faulted .illegalCommand w s)

/-- SEQUENCE_ERROR is raised, outside FAULT mode, by exactly the data and end commands of the other mode (R102, R110). -/
def Obligations.SequenceErrorIsTheWrongMode : Prop :=
  ∀ (i : Instr) (s : State), s.mode ≠ .fault →
    (exec i s = .next (faulted .sequenceError (encode i) s) ↔
      (((∃ c, i = .encByte c) ∨ i = .encEnd) ∧ s.mode ≠ .encode) ∨
      (((∃ b, i = .decByte b) ∨ i = .decEnd) ∧ s.mode ≠ .decode))

/-- Whatever fault a word raises, entry writes `MODE`, `ERR`, `DONE` and `FAULT_CMD` and nothing else (R112). -/
def Obligations.FaultEntryWritesFourRegisters : Prop :=
  ∀ (w : Word) (s t : State), s.mode ≠ .fault → coreStep w s = .next t → t.mode = .fault →
    t.err ≠ .noError ∧ t = faulted t.err w s

/-- In FAULT mode the words 0x0100, 0x1100 and 0x2000 perform `ENC_START`, `DEC_START` and `ABORT`, and every other word,
legal or not, writes nothing (R114). -/
def Obligations.FaultModeActsOnThreeWords : Prop :=
  ∀ (w : Word) (s : State), s.mode = .fault →
    coreStep w s =
      if w = 0x0100#16 then exec .encStart s
      else if w = 0x1100#16 then exec .decStart s
      else if w = 0x2000#16 then exec .abort s
      else .next s

/-- Only a START or `ABORT` accepted at the edge, or a reset edge, leaves FAULT mode, and until then the cause and the
word are kept (R115). That acceptance goes by `BUSY` before the pop of the same edge is the model's choice (log 11); the
queue and the edges are the model's form of the host (log 1). -/
def Obligations.FaultModeIsSticky : Prop :=
  ∀ s t : State, s.mode = .fault → step s = .next t →
    (t.mode = .fault ∧ t.err = s.err ∧ t.faultCmd = s.faultCmd) ∨
    (∃ e rest, s.edges = e :: rest ∧
      (e.rst = true ∨
        (e.cmdValid = true ∧ s.busy = false ∧
          ∃ w ws, s.cmdq = w :: ws ∧ w ∈ [0x0100#16, 0x1100#16, 0x2000#16])))

/-! ## The commands -/

/-- `NOP`, the word 0x0000, writes no state, in any mode (R100). -/
def Obligations.NopWritesNothing : Prop :=
  encode .nop = 0x0000#16 ∧ (∀ x : Byte, x ≠ 0x00#8 → decode (0x00#8 ++ x) = none) ∧ ∀ s : State, exec .nop s = .next s

/-- `ENC_START`, the word 0x0100, opens an encode operation from any mode with every register afresh (R81). -/
def Obligations.EncStartOpensAnEncode : Prop :=
  encode .encStart = 0x0100#16 ∧
  ∀ s : State, ∃ t, exec .encStart s = .next t ∧ StartedAfresh .encode s t ∧ t.outEmpty = true

/-- `DEC_START`, the word 0x1100, opens a decode operation from any mode with every register afresh (R90). -/
def Obligations.DecStartOpensADecode : Prop :=
  encode .decStart = 0x1100#16 ∧
  ∀ s : State, ∃ t, exec .decStart s = .next t ∧ StartedAfresh .decode s t ∧ t.outEmpty = true

/-- `ABORT`, the word 0x2000, returns to IDLE from any mode, and leaves the reset value in every register (R101). -/
def Obligations.AbortReturnsToIdle : Prop :=
  encode .abort = 0x2000#16 ∧
  ∀ s : State, ∃ t, exec .abort s = .next t ∧ StartedAfresh .idle s t ∧ ResetValues t

/-- `ENC_BYTE c`: begin with the seed code, extend through a hit, fault on a miss with a full dictionary, or emit the code
of `w`, insert `wc` and go on from `c`; SEQUENCE_ERROR in IDLE and DECODE, ignored in FAULT (R82). -/
def Obligations.EncByteTakesOneInputByte : Prop :=
  ∀ (c : Byte) (s : State),
    encode (.encByte c) = 0x02#8 ++ c ∧
    (s.mode = .encode →
      (s.wValid = false →
        exec (.encByte c) s =
          .next { s with wCode := c.setWidth 16, wValid := true, inCount := s.inCount + 1#32 }) ∧
      (s.wValid = true → ∀ k, indexLookup s s.wCode c = some k →
        exec (.encByte c) s = .next { s with wCode := BitVec.ofNat 16 k, inCount := s.inCount + 1#32 }) ∧
      (s.wValid = true → indexLookup s s.wCode c = none → s.dictSize = 65536#17 →
        exec (.encByte c) s = .next (faulted .capacityExceeded (0x02#8 ++ c) s)) ∧
      (s.wValid = true → indexLookup s s.wCode c = none → s.dictSize ≠ 65536#17 →
        exec (.encByte c) s =
          .next
            { s with
              outq := s.outq ++ [s.wCode.extractLsb' 0 8, s.wCode.extractLsb' 8 8]
              outCount := s.outCount + 2#32
              dict := Memory.set s.dict s.dictSize.toNat
                { prefixCode := s.wCode, suffixByte := c, firstByte := firstOf s s.wCode }
              dictSize := s.dictSize + 1#17
              wCode := c.setWidth 16
              inCount := s.inCount + 1#32 })) ∧
    ((s.mode = .idle ∨ s.mode = .decode) →
      exec (.encByte c) s = .next (faulted .sequenceError (0x02#8 ++ c) s)) ∧
    (s.mode = .fault → exec (.encByte c) s = .next s)

/-- `ENC_END`: flush a non-empty `w`, close the operation; SEQUENCE_ERROR in IDLE and DECODE, ignored in FAULT (R83).
That the flush counts in `OUT_COUNT` is the model's choice between two texts of the spec (log 25). -/
def Obligations.EncEndFlushesAndCloses : Prop :=
  encode .encEnd = 0x0300#16 ∧
  ∀ s : State,
    (s.mode = .encode →
      (s.wValid = true →
        exec .encEnd s =
          .next
            { s with
              outq := s.outq ++ [s.wCode.extractLsb' 0 8, s.wCode.extractLsb' 8 8]
              outCount := s.outCount + 2#32
              wValid := false
              mode := .idle
              done := true }) ∧
      (s.wValid = false → exec .encEnd s = .next { s with mode := .idle, done := true })) ∧
    ((s.mode = .idle ∨ s.mode = .decode) → exec .encEnd s = .next (faulted .sequenceError 0x0300#16 s)) ∧
    (s.mode = .fault → exec .encEnd s = .next s)

/-- `DEC_BYTE b` as the low half of a code is held; SEQUENCE_ERROR in IDLE and ENCODE, ignored in FAULT (R91). -/
def Obligations.DecByteHoldsTheLowHalf : Prop :=
  ∀ (b : Byte) (s : State),
    encode (.decByte b) = 0x12#8 ++ b ∧
    (s.mode = .decode → s.halfValid = false →
      exec (.decByte b) s =
        .next { s with halfByte := b, halfValid := true, inCount := s.inCount + 1#32 }) ∧
    ((s.mode = .idle ∨ s.mode = .encode) →
      exec (.decByte b) s = .next (faulted .sequenceError (0x12#8 ++ b) s)) ∧
    (s.mode = .fault → exec (.decByte b) s = .next s)

/-- `DEC_BYTE b` as the high half completes the code `k = (b << 8) | HALF_BYTE` and decodes it: a first code is a root or
CORRUPT_DATA; a later one CORRUPT_DATA above `DICT_SIZE`, CAPACITY_EXCEEDED at a full dictionary, otherwise its string
is emitted (in the self-reference case `Str(W_CODE) ++ [First(W_CODE)]`) and `w + entry[0]` inserted, with `entry[0]`
as R92's corner cases give it (R91, R92). -/
def Obligations.DecByteDecodesACompleteCode : Prop :=
  ∀ (b : Byte) (s : State) (k : Code), s.mode = .decode → s.halfValid = true →
    k = (b.setWidth 16 <<< 8) ||| s.halfByte.setWidth 16 →
    (s.wValid = false → 256 ≤ k.toNat →
      exec (.decByte b) s = .next (faulted .corruptData (0x12#8 ++ b) s)) ∧
    (s.wValid = false → k.toNat < 256 →
      exec (.decByte b) s =
        .next
          { s with
            outq := s.outq ++ [k.extractLsb' 0 8]
            outCount := s.outCount + 1#32
            wCode := k
            wValid := true
            halfValid := false
            inCount := s.inCount + 1#32 }) ∧
    (s.wValid = true → s.dictSize.toNat < k.toNat →
      exec (.decByte b) s = .next (faulted .corruptData (0x12#8 ++ b) s)) ∧
    (s.wValid = true → k.toNat ≤ s.dictSize.toNat → s.dictSize = 65536#17 →
      exec (.decByte b) s = .next (faulted .capacityExceeded (0x12#8 ++ b) s)) ∧
    (s.wValid = true → k.toNat < s.dictSize.toNat → s.dictSize ≠ 65536#17 →
      exec (.decByte b) s =
        .next
          { s with
            outq := s.outq ++ strOf s k
            outCount := s.outCount + BitVec.ofNat 32 (strOf s k).length
            dict := Memory.set s.dict s.dictSize.toNat
              { prefixCode := s.wCode, suffixByte := firstOf s k, firstByte := firstOf s s.wCode }
            dictSize := s.dictSize + 1#17
            wCode := k
            halfValid := false
            inCount := s.inCount + 1#32 }) ∧
    (s.wValid = true → k.toNat = s.dictSize.toNat → s.dictSize ≠ 65536#17 →
      exec (.decByte b) s =
        .next
          { s with
            outq := s.outq ++ (strOf s s.wCode ++ [firstOf s s.wCode])
            outCount := s.outCount + BitVec.ofNat 32 ((strOf s s.wCode).length + 1)
            dict := Memory.set s.dict s.dictSize.toNat
              { prefixCode := s.wCode, suffixByte := firstOf s s.wCode, firstByte := firstOf s s.wCode }
            dictSize := s.dictSize + 1#17
            wCode := k
            halfValid := false
            inCount := s.inCount + 1#32 })

/-- After a later code is decoded, its string in the new dictionary is what was emitted, and the new entry is the
previous string with the emitted string's first byte (R92's corner cases and R22). The invariant rests on the spec's
own inference R30 and on log 20. -/
def Obligations.DecodedEntryIsItsString : Prop :=
  ∀ (b : Byte) (s t : State), s.Inv → s.mode = .decode → s.halfValid = true → s.wValid = true →
    exec (.decByte b) s = .next t → t.mode = .decode →
    ∃ entry first rest, entry = first :: rest ∧ t.outq = s.outq ++ entry ∧ strOf t t.wCode = entry ∧
      t.dictSize.toNat = s.dictSize.toNat + 1 ∧
      strOf t (BitVec.ofNat 16 s.dictSize.toNat) = strOf s s.wCode ++ [first]

/-- `DEC_END`: MALFORMED_INPUT with a half code held, otherwise the operation closes; SEQUENCE_ERROR in IDLE and ENCODE,
ignored in FAULT (R93). -/
def Obligations.DecEndClosesOrFaults : Prop :=
  encode .decEnd = 0x1300#16 ∧
  ∀ s : State,
    (s.mode = .decode →
      (s.halfValid = true → exec .decEnd s = .next (faulted .malformedInput 0x1300#16 s)) ∧
      (s.halfValid = false →
        exec .decEnd s = .next { s with wValid := false, mode := .idle, done := true })) ∧
    ((s.mode = .idle ∨ s.mode = .encode) → exec .decEnd s = .next (faulted .sequenceError 0x1300#16 s)) ∧
    (s.mode = .fault → exec .decEnd s = .next s)

/-! ## Frames -/

/-- `NOP`, the STARTs, the ENDs and `ABORT` change no word of the dictionary arrays, at any code, and nothing of the
host's side. The host's side is the model's own state (log 1, 2, 8, 9). -/
def Obligations.NonDataCommandsKeepTheArrays : Prop :=
  ∀ (i : Instr) (s t : State), i ∈ [.nop, .encStart, .encEnd, .decStart, .decEnd, .abort] →
    exec i s = .next t → (∀ k, dictRead t k = dictRead s k) ∧ HostSideSame s t

/-- The ENDs change only `MODE`, `DONE`, `W_VALID`, on a flush `OUTQ` and `OUT_COUNT`, and on a fault only `MODE`,
`DONE`, `ERR` and `FAULT_CMD`; they change no word of the arrays. That a flush counts in `OUT_COUNT` is the model's choice
between two texts of the spec (log 25); the ledger and the host's side are the model's own (log 1, 7). -/
def Obligations.EndCommandsFrame : Prop :=
  ∀ (i : Instr) (s t : State), i ∈ [.encEnd, .decEnd] → exec i s = .next t →
    t.wCode = s.wCode ∧ t.dictSize = s.dictSize ∧ t.halfValid = s.halfValid ∧ t.halfByte = s.halfByte ∧
    t.inCount = s.inCount ∧ (∀ k, dictRead t k = dictRead s k) ∧ HostSideSame s t ∧ t.popped = s.popped ∧
    (t.mode ≠ .fault → t.err = s.err ∧ t.faultCmd = s.faultCmd) ∧
    (t.mode = .fault → t.wValid = s.wValid) ∧
    ((i = .decEnd ∨ s.wValid = false ∨ t.mode = .fault) → t.outq = s.outq ∧ t.outCount = s.outCount)

/-- `ENC_BYTE` writes at most the array words at code `DICT_SIZE`, none where `DICT_SIZE` stays, and no register but
`W_VALID`, `W_CODE`, `IN_COUNT`, `OUTQ`, `OUT_COUNT`, `DICT_SIZE`, unless it faults. The ledger and the host's side
are the model's own (log 1, 7). -/
def Obligations.EncByteFrame : Prop :=
  ∀ (c : Byte) (s t : State), exec (.encByte c) s = .next t →
    (∀ k, k ≠ s.dictSize.toNat → dictRead t k = dictRead s k) ∧
    (t.dictSize = s.dictSize → ∀ k, dictRead t k = dictRead s k) ∧
    HostSideSame s t ∧ t.popped = s.popped ∧ t.halfValid = s.halfValid ∧ t.halfByte = s.halfByte ∧
    (t.mode ≠ .fault → t.mode = s.mode ∧ t.err = s.err ∧ t.done = s.done ∧ t.faultCmd = s.faultCmd)

/-- `DEC_BYTE` writes at most the array words at code `DICT_SIZE`, none where `DICT_SIZE` stays, and no register but
`HALF_BYTE`, `HALF_VALID`, `IN_COUNT`, `W_VALID`, `W_CODE`, `OUTQ`, `OUT_COUNT`, `DICT_SIZE`, unless it faults; a
first half writes only the first three. The ledger and the host's side are the model's own (log 1, 7). -/
def Obligations.DecByteFrame : Prop :=
  ∀ (b : Byte) (s t : State), exec (.decByte b) s = .next t →
    (∀ k, k ≠ s.dictSize.toNat → dictRead t k = dictRead s k) ∧
    (t.dictSize = s.dictSize → ∀ k, dictRead t k = dictRead s k) ∧
    HostSideSame s t ∧ t.popped = s.popped ∧
    (t.mode ≠ .fault → t.mode = s.mode ∧ t.err = s.err ∧ t.done = s.done ∧ t.faultCmd = s.faultCmd) ∧
    (s.halfValid = false → t.wValid = s.wValid ∧ t.wCode = s.wCode ∧ t.dictSize = s.dictSize ∧ t.outq = s.outq ∧
      t.outCount = s.outCount) ∧
    (s.halfValid = true → t.halfByte = s.halfByte)

/-! ## The dictionary -/

/-- `First(k)` is `k[7:0]` for a root, the stored `FIRST[k]` otherwise, and the first byte of `Str(k)` for every
code of the dictionary (R43). That it is the first byte of `Str(k)` is the spec's own inference ([derived: from rule
R45 and rule R47]); the invariant rests on R30 and log 20. -/
def Obligations.FirstIsTheHeadOfTheString : Prop :=
  ∀ (s : State) (k : Code), s.Inv → k.toNat < s.dictSize.toNat →
    (k.toNat < 256 → firstOf s k = k.extractLsb' 0 8) ∧
    (256 ≤ k.toNat → firstOf s k = (dictRead s k.toNat).firstByte) ∧
    (strOf s k).head? = some (firstOf s k)

/-- `IndexLookup(p, c)` is exact over the stored codes, and in ENCODE mode no second code matches (R44, R50).
Uniqueness is the spec's own inference R50; the invariant rests on R30 and log 20. -/
def Obligations.IndexLookupIsExact : Prop :=
  ∀ (s : State) (p : Code) (c : Byte),
    (∀ k, indexLookup s p c = some k →
      256 ≤ k ∧ k < s.dictSize.toNat ∧ (dictRead s k).prefixCode = p ∧ (dictRead s k).suffixByte = c ∧
      (s.Inv → s.mode = .encode → ∀ j, 256 ≤ j → j < s.dictSize.toNat →
        (dictRead s j).prefixCode = p → (dictRead s j).suffixByte = c → j = k)) ∧
    (indexLookup s p c = none → ∀ k, 256 ≤ k → k < s.dictSize.toNat →
      ¬((dictRead s k).prefixCode = p ∧ (dictRead s k).suffixByte = c))

/-- `Str(k)` is `[k[7:0]]` for a root and `Str(PREFIX[k]) ++ [SUFFIX[k]]` for a stored code (R45). The invariant
rests on the spec's own inference R30 and on log 20. -/
def Obligations.StringOfACodeIsItsChain : Prop :=
  ∀ (s : State) (k : Code), s.Inv → k.toNat < s.dictSize.toNat →
    (k.toNat < 256 → strOf s k = [k.extractLsb' 0 8]) ∧
    (256 ≤ k.toNat →
      strOf s k = strOf s (dictRead s k.toNat).prefixCode ++ [(dictRead s k.toNat).suffixByte])

/-- Every stored string has at least 2 and at most `k - 254` bytes, so none is longer than 65281 (R46). The spec
marks this as its own inference ([derived: ...]). The invariant rests on R30 and log 20. -/
def Obligations.StoredStringsAreBounded : Prop :=
  ∀ (s : State) (k : Code), s.Inv → 256 ≤ k.toNat → k.toNat < s.dictSize.toNat →
    2 ≤ (strOf s k).length ∧ (strOf s k).length ≤ k.toNat - 254 ∧ (strOf s k).length ≤ 65281

/-- After `DictInsert(p, c)` the new code's string is `Str(p) ++ [c]`, every earlier code's string stays, and the
index finds the new entry where it found none (R47). The invariant rests on the spec's own inference R30 and on log
20. -/
def Obligations.DictInsertAddsOneString : Prop :=
  ∀ (s : State) (p : Code) (c : Byte), s.Inv → s.dictSize.toNat < 65536 → p.toNat < s.dictSize.toNat →
    (dictInsert p c s).dictSize.toNat = s.dictSize.toNat + 1 ∧
    dictRead (dictInsert p c s) s.dictSize.toNat = { prefixCode := p, suffixByte := c, firstByte := firstOf s p } ∧
    strOf (dictInsert p c s) (BitVec.ofNat 16 s.dictSize.toNat) = strOf s p ++ [c] ∧
    (∀ k : Code, k.toNat < s.dictSize.toNat → strOf (dictInsert p c s) k = strOf s k) ∧
    (indexLookup s p c = none → indexLookup (dictInsert p c s) p c = some s.dictSize.toNat)

/-- After `DictSeed()` the dictionary is exactly the 256 roots: every lookup answers none, the strings of 0 to 255 are
single bytes, and the arrays are not touched (R48). -/
def Obligations.DictSeedLeavesTheRoots : Prop :=
  ∀ s : State,
    (dictSeed s).dictSize = 256#17 ∧
    (∀ p c, indexLookup (dictSeed s) p c = none) ∧
    (∀ k : Code, k.toNat < 256 → strOf (dictSeed s) k = [k.extractLsb' 0 8]) ∧
    ∀ k, dictRead (dictSeed s) k = dictRead s k

/-- Within an operation the dictionary is append-only: no command but a START or `ABORT` rewrites an entry below
`DICT_SIZE` or makes `DICT_SIZE` smaller (R49). -/
def Obligations.DictionaryIsAppendOnly : Prop :=
  ∀ (i : Instr) (s t : State), i ≠ .encStart → i ≠ .decStart → i ≠ .abort → s.dictSize.toNat ≤ 65536 →
    exec i s = .next t →
    s.dictSize.toNat ≤ t.dictSize.toNat ∧ t.dictSize.toNat ≤ s.dictSize.toNat + 1 ∧
    ∀ k, 256 ≤ k → k < s.dictSize.toNat → dictRead t k = dictRead s k

/-- A command appends to the queue, or empties it at a fresh start: `ENC_BYTE` and `ENC_END` at most 2 bytes,
`DEC_BYTE` at most 65281, the others none (R55, R98, R132). The bounds are the spec's own inference R98; the
invariant rests on R30 and log 20, the count of a flush on log 25. -/
def Obligations.OutputPerCommandIsBounded : Prop :=
  ∀ (i : Instr) (s t : State), s.Inv → i ≠ .encStart → i ≠ .decStart → i ≠ .abort → exec i s = .next t →
    ∃ bs, t.outq = s.outq ++ bs ∧ t.outCount = s.outCount + BitVec.ofNat 32 bs.length ∧
      ((∃ c, i = .encByte c) ∨ i = .encEnd → bs.length ≤ 2) ∧
      ((∃ b, i = .decByte b) → bs.length ≤ 65281) ∧
      (i = .nop ∨ i = .decEnd → bs = [])

/-! ## Invariants -/

/-- The invariants of R30 hold at reset. R30 is the spec's own inference ([derived: ...]); items 10 and 11 through
the counters (log 20). -/
def Obligations.InvariantHoldsAtReset : Prop :=
  State.reset.Inv

/-- The invariants of R30 are kept by every step from every state that has them; and where a step enters FAULT mode
from ENCODE mode, or stays in FAULT mode, `Str` stays injective (R30 item 9). Items 10 and 11 count codes through
`IN_COUNT` and `OUT_COUNT` (log 20), and a flush counts in `OUT_COUNT` (log 25). R30 is the spec's own inference
([derived: ...]). -/
def Obligations.InvariantIsKeptByEveryStep : Prop :=
  ∀ s t : State, s.Inv → step s = .next t →
    t.Inv ∧
    (t.mode = .fault → (s.mode = .encode ∨ (s.mode = .fault ∧ s.StrInjective)) → t.StrInjective)

/-- Every step keeps the dictionary table in canonical form, from every state, reachable or not. The form is the
model's own (log 4). -/
def Obligations.TableFormIsKeptByEveryStep : Prop :=
  ∀ s t : State, Memory.wf s.dict = true → step s = .next t → Memory.wf t.dict = true

/-- What the arrays hold at and above `DICT_SIZE` is not observable: two states that agree on all else step alike
under every command (R49, R87). R87 is the spec's own inference; the invariant rests on R30 and log 20. -/
def Obligations.LeftoversAreNotObservable : Prop :=
  ∀ (i : Instr) (s t s' t' : State), s.Inv → t.Inv → State.SameButLeftovers s t →
    exec i s = .next s' → exec i t = .next t' → State.SameButLeftovers s' t'

/-- No schedule of pops, reads and timing changes what a command computes: states with the same registers and the
same emitted bytes go to states with the same registers and the same emitted bytes (R59). The ledger of popped bytes
is the model's own (log 7). -/
def Obligations.ScheduleIsNotObservable : Prop :=
  ∀ (i : Instr) (s t s' t' : State), State.SameCore s t →
    exec i s = .next s' → exec i t = .next t' → State.SameCore s' t'

/-- An END, in any mode, leaves exactly one of the two outcomes once `BUSY = 0`: success with the operation's
bytes as the result, or failure with no result (R116, R136). The ledger is the model's own (log 7); that an
END given with no operation open, which faults, counts as a failure is the model's choice (log 26). -/
def Obligations.EndHasOneOfTwoOutcomes : Prop :=
  ∀ (i : Instr) (s t : State), i ∈ [.encEnd, .decEnd] → exec i s = .next t → t.busy = false →
    (Safety.succeeded t = true ∧ Safety.failed t = false ∧ Safety.result t = some (t.popped ++ t.outq)) ∨
    (Safety.succeeded t = false ∧ Safety.failed t = true ∧ Safety.result t = none)

/-! ## What the commands compute -/

/-- From any state, ENC_START, the bytes of `x` and ENC_END compute `compress_R(x)`: the packed codes, the counters
and the dictionary; or they fault at the byte at which it returned CapacityExceeded, and ignore the rest (R84). The
spec marks this as its own inference ([derived: ...]); the count of the final flush rests on log 25. -/
def Obligations.EncodeCommandsComputeCompress : Prop :=
  ∀ (x : List Byte) (s : State),
    (∀ codes, compressR x = some codes →
      ∃ t, runWords (encodeWords x) s = .next t ∧ t.outq = pack codes ∧ t.mode = .idle ∧ t.done = true ∧
        t.inCount = BitVec.ofNat 32 x.length ∧ t.outCount = BitVec.ofNat 32 (2 * codes.length) ∧ t.wValid = false ∧
        t.dictSize.toNat = 256 + (codes.length - 1) ∧
        ∀ k : Code, 256 ≤ k.toNat → k.toNat < t.dictSize.toNat →
          ∃ m, Compressor.start.run x = some m ∧ m.table[k.toNat - 256]? = some (strOf t k)) ∧
    (∀ (i : Nat) (c : Byte) (codes : List Code), x[i]? = some c → compressR (x.take i) = some codes →
      compressR (x.take (i + 1)) = none →
      ∃ t, runWords (encodeWords x) s = .next t ∧ t.mode = .fault ∧ t.err = .capacityExceeded ∧
        t.faultCmd = 0x02#8 ++ c ∧ t.dictSize = 65536#17 ∧ t.inCount = BitVec.ofNat 32 i ∧
        codes.length = 65281 ∧ t.outq = pack (codes.take 65280))

/-- Every input of at most 65281 bytes encodes without a fault (R86). The spec marks this as its own inference
([derived: ...]). -/
def Obligations.ShortInputsEncode : Prop :=
  ∀ x : List Byte, x.length ≤ 65281 → ∃ codes, compressR x = some codes ∧ codes.length ≤ x.length

/-- From any state, DEC_START, the bytes of `p` and DEC_END compute `decompress_bytes_R(p)` where it succeeds, and
end in MALFORMED_INPUT at DEC_END where its codes decode but its length is odd (R94). The spec marks this as its own
inference ([derived: ...]). -/
def Obligations.DecodeCommandsComputeDecompress : Prop :=
  ∀ (p : List Byte) (s : State),
    (∀ r, decompressBytesR p = .ok r →
      ∃ t, runWords (decodeWords p) s = .next t ∧ t.outq = r ∧ t.mode = .idle ∧ t.done = true ∧
        t.dictSize.toNat = 256 + ((unpack p).length - 1) ∧ t.inCount = BitVec.ofNat 32 p.length ∧
        t.outCount = BitVec.ofNat 32 r.length) ∧
    (decompressBytesR p = .error .malformedInput →
      ∃ t r, runWords (decodeWords p) s = .next t ∧ t.mode = .fault ∧ t.err = .malformedInput ∧
        t.faultCmd = 0x1300#16 ∧ t.inCount = BitVec.ofNat 32 p.length ∧
        decompressR (unpack p) = .ok r ∧ t.outq = r)

/-- Where `decompress_R` fails at the code of index `i`, the decode commands fault at the byte that completes that
code, with the output of the codes before it, and ignore the rest (R94). The spec marks this as its own inference
([derived: ...]). -/
def Obligations.DecodeFaultsAtTheBadCode : Prop :=
  ∀ (p : List Byte) (s : State) (i : Nat) (low high : Byte) (r : List Byte) (cause : ErrCode),
    p[2 * i]? = some low → p[2 * i + 1]? = some high → decompressR ((unpack p).take i) = .ok r →
    decompressR ((unpack p).take (i + 1)) = .error cause →
    decompressBytesR p = .error cause ∧
    ∃ t, runWords (decodeWords p) s = .next t ∧ t.mode = .fault ∧ t.err = cause ∧ t.faultCmd = 0x12#8 ++ high ∧
      t.halfValid = true ∧ t.halfByte = low ∧ t.inCount = BitVec.ofNat 32 (2 * i + 1) ∧ t.outq = r

/-- Decoding what an encode emitted gives the input back: on the functions, and on the commands of the core from any
states (R95). The spec marks this as its own inference ([derived: ...]). -/
def Obligations.RoundTripGivesTheInputBack : Prop :=
  ∀ (x : List Byte) (codes : List Code), compressR x = some codes →
    decompressBytesR (pack codes) = .ok x ∧
    ∀ s u : State, ∃ t v, runWords (encodeWords x) s = .next t ∧ runWords (decodeWords t.outq) u = .next v ∧
      v.outq = x ∧ v.mode = .idle ∧ v.done = true

/-! ## The assembler -/

/-- `DEC_CODE k` writes the low byte's word and then the high byte's, and `DEC_BYTES` one word per byte (R76). -/
def Obligations.DecCodeExpandsLowByteFirst : Prop :=
  (∀ k : Code, expandLine (.decCode k.toNat) =
    some [0x12#8 ++ k.extractLsb' 0 8, 0x12#8 ++ k.extractLsb' 8 8]) ∧
  (∀ n, 65536 ≤ n → expandLine (.decCode n) = none) ∧
  ∀ bs : List Byte, expandLine (.decBytes (bs.map BitVec.toNat)) = some (bs.map fun b => 0x12#8 ++ b)

/-- `ENCODE` writes the words of an encode of its text and `DECODE` those of a decode of the packed codes (R77). -/
def Obligations.EncodeAndDecodeLinesExpand : Prop :=
  (∀ x : List Byte, expandLine (.encodeText x) = some (encodeWords x)) ∧
  ∀ ks : List Code, expandLine (.decodeCodes (ks.map BitVec.toNat)) = some (decodeWords (pack ks))

/-- A written byte operand outside 0 to 255, an operand on an operand-less mnemonic, and a data command without one write
no word; every other mnemonic line writes its one word (R73, R74). That a data command without an operand is refused is
read from R64, which gives it an operand, and R74, which gives the operand's written forms (DEDUCED, log 18). -/
def Obligations.AssemblerRefusesBadOperands : Prop :=
  (∀ n, 256 ≤ n → expandLine (.command .encByte (some n)) = none ∧ expandLine (.command .decByte (some n)) = none) ∧
  (∀ c : Byte, expandLine (.command .encByte (some c.toNat)) = some [0x02#8 ++ c] ∧
    expandLine (.command .decByte (some c.toNat)) = some [0x12#8 ++ c]) ∧
  (∀ m n, m ∈ [.nop, .encStart, .encEnd, .decStart, .decEnd, .abort] → expandLine (.command m (some n)) = none) ∧
  expandLine (.command .encByte none) = none ∧ expandLine (.command .decByte none) = none ∧
  expandLine (.command .nop none) = some [0x0000#16] ∧ expandLine (.command .encStart none) = some [0x0100#16] ∧
  expandLine (.command .encEnd none) = some [0x0300#16] ∧ expandLine (.command .decStart none) = some [0x1100#16] ∧
  expandLine (.command .decEnd none) = some [0x1300#16] ∧ expandLine (.command .abort none) = some [0x2000#16] ∧
  (∀ w : Word, expandLine (.rawWord w.toNat) = some [w])
end

