-- ==== Sys2Proof/Laws/Encoding.lean ====
section
/-! SUPPORT. The fields of an encoded command, and what a decoded word is made of. -/

namespace Sys2Proof

/-- A word is its opcode byte followed by its operand byte. -/
theorem word_fields (w : Word) : opcField w ++ opdField w = w := by
  apply BitVec.eq_of_getLsbD_eq
  intro i hi
  simp only [BitVec.getLsbD_append, opcField, opdField, BitVec.getLsbD_extractLsb']
  by_cases h : i < 8
  · simp [h]
  · simp only [h, if_false]
    have : i - 8 < 8 := by omega
    have h8 : 8 + (i - 8) = i := by omega
    simp [this, h8]

@[simp] theorem opcField_append (a b : Byte) : opcField (a ++ b) = a := by
  apply BitVec.eq_of_getLsbD_eq
  intro i hi
  have h := BitVec.getLsbD_append (x := a) (y := b) (i := 8 + i)
  simp only [show ¬8 + i < 8 by omega, if_false, show 8 + i - 8 = i by omega] at h
  simp only [opcField, BitVec.getLsbD_extractLsb', hi, decide_true, Bool.true_and]
  exact h

@[simp] theorem opdField_append (a b : Byte) : opdField (a ++ b) = b := by
  apply BitVec.eq_of_getLsbD_eq
  intro i hi
  have h := BitVec.getLsbD_append (x := a) (y := b) (i := 0 + i)
  simp only [Nat.zero_add, hi, if_true] at h
  simp only [opdField, BitVec.getLsbD_extractLsb', hi, decide_true, Bool.true_and, Nat.zero_add]
  exact h

@[simp] theorem opcField_encode (i : Instr) : opcField (encode i) = opcodeOf i := by simp [encode]

@[simp] theorem opdField_encode (i : Instr) : opdField (encode i) = operandOf i := by simp [encode]

end Sys2Proof
end

