-- ==== Sys2Proof/Laws/State.lean ====
section
/-! SUPPORT. What each named operation leaves in each field of State: one lemma per field and operation. -/

namespace Sys2Proof.Machine

open Sys2Proof

variable (s : State)

/-! ## emit -/

@[simp] theorem emit_mode (bs : List Byte) : (emit bs s).mode = s.mode := rfl
@[simp] theorem emit_err (bs : List Byte) : (emit bs s).err = s.err := rfl
@[simp] theorem emit_done (bs : List Byte) : (emit bs s).done = s.done := rfl
@[simp] theorem emit_wValid (bs : List Byte) : (emit bs s).wValid = s.wValid := rfl
@[simp] theorem emit_wCode (bs : List Byte) : (emit bs s).wCode = s.wCode := rfl
@[simp] theorem emit_dictSize (bs : List Byte) : (emit bs s).dictSize = s.dictSize := rfl
@[simp] theorem emit_halfValid (bs : List Byte) : (emit bs s).halfValid = s.halfValid := rfl
@[simp] theorem emit_halfByte (bs : List Byte) : (emit bs s).halfByte = s.halfByte := rfl
@[simp] theorem emit_faultCmd (bs : List Byte) : (emit bs s).faultCmd = s.faultCmd := rfl
@[simp] theorem emit_inCount (bs : List Byte) : (emit bs s).inCount = s.inCount := rfl
@[simp] theorem emit_outCount (bs : List Byte) : (emit bs s).outCount = s.outCount + BitVec.ofNat 32 bs.length := rfl
@[simp] theorem emit_outq (bs : List Byte) : (emit bs s).outq = s.outq ++ bs := rfl
@[simp] theorem emit_dict (bs : List Byte) : (emit bs s).dict = s.dict := rfl
@[simp] theorem emit_arrayEpoch (bs : List Byte) : (emit bs s).arrayEpoch = s.arrayEpoch := rfl
@[simp] theorem emit_busyLeft (bs : List Byte) : (emit bs s).busyLeft = s.busyLeft := rfl
@[simp] theorem emit_inProgress (bs : List Byte) : (emit bs s).inProgress = s.inProgress := rfl
@[simp] theorem emit_cmdq (bs : List Byte) : (emit bs s).cmdq = s.cmdq := rfl
@[simp] theorem emit_edges (bs : List Byte) : (emit bs s).edges = s.edges := rfl
@[simp] theorem emit_regRdata (bs : List Byte) : (emit bs s).regRdata = s.regRdata := rfl
@[simp] theorem emit_outTaken (bs : List Byte) : (emit bs s).outTaken = s.outTaken := rfl
@[simp] theorem emit_popped (bs : List Byte) : (emit bs s).popped = s.popped := rfl

/-! ## countIn -/

@[simp] theorem countIn_mode : (countIn s).mode = s.mode := rfl
@[simp] theorem countIn_err : (countIn s).err = s.err := rfl
@[simp] theorem countIn_done : (countIn s).done = s.done := rfl
@[simp] theorem countIn_wValid : (countIn s).wValid = s.wValid := rfl
@[simp] theorem countIn_wCode : (countIn s).wCode = s.wCode := rfl
@[simp] theorem countIn_dictSize : (countIn s).dictSize = s.dictSize := rfl
@[simp] theorem countIn_halfValid : (countIn s).halfValid = s.halfValid := rfl
@[simp] theorem countIn_halfByte : (countIn s).halfByte = s.halfByte := rfl
@[simp] theorem countIn_faultCmd : (countIn s).faultCmd = s.faultCmd := rfl
@[simp] theorem countIn_inCount : (countIn s).inCount = s.inCount + 1#32 := rfl
@[simp] theorem countIn_outCount : (countIn s).outCount = s.outCount := rfl
@[simp] theorem countIn_outq : (countIn s).outq = s.outq := rfl
@[simp] theorem countIn_dict : (countIn s).dict = s.dict := rfl
@[simp] theorem countIn_arrayEpoch : (countIn s).arrayEpoch = s.arrayEpoch := rfl
@[simp] theorem countIn_busyLeft : (countIn s).busyLeft = s.busyLeft := rfl
@[simp] theorem countIn_inProgress : (countIn s).inProgress = s.inProgress := rfl
@[simp] theorem countIn_cmdq : (countIn s).cmdq = s.cmdq := rfl
@[simp] theorem countIn_edges : (countIn s).edges = s.edges := rfl
@[simp] theorem countIn_regRdata : (countIn s).regRdata = s.regRdata := rfl
@[simp] theorem countIn_outTaken : (countIn s).outTaken = s.outTaken := rfl
@[simp] theorem countIn_popped : (countIn s).popped = s.popped := rfl

/-! ## dictInsert -/

@[simp] theorem dictInsert_mode (p : Code) (c : Byte) : (dictInsert p c s).mode = s.mode := rfl
@[simp] theorem dictInsert_err (p : Code) (c : Byte) : (dictInsert p c s).err = s.err := rfl
@[simp] theorem dictInsert_done (p : Code) (c : Byte) : (dictInsert p c s).done = s.done := rfl
@[simp] theorem dictInsert_wValid (p : Code) (c : Byte) : (dictInsert p c s).wValid = s.wValid := rfl
@[simp] theorem dictInsert_wCode (p : Code) (c : Byte) : (dictInsert p c s).wCode = s.wCode := rfl
@[simp] theorem dictInsert_dictSize (p : Code) (c : Byte) : (dictInsert p c s).dictSize = s.dictSize + 1#17 := rfl
@[simp] theorem dictInsert_halfValid (p : Code) (c : Byte) : (dictInsert p c s).halfValid = s.halfValid := rfl
@[simp] theorem dictInsert_halfByte (p : Code) (c : Byte) : (dictInsert p c s).halfByte = s.halfByte := rfl
@[simp] theorem dictInsert_faultCmd (p : Code) (c : Byte) : (dictInsert p c s).faultCmd = s.faultCmd := rfl
@[simp] theorem dictInsert_inCount (p : Code) (c : Byte) : (dictInsert p c s).inCount = s.inCount := rfl
@[simp] theorem dictInsert_outCount (p : Code) (c : Byte) : (dictInsert p c s).outCount = s.outCount := rfl
@[simp] theorem dictInsert_outq (p : Code) (c : Byte) : (dictInsert p c s).outq = s.outq := rfl
@[simp] theorem dictInsert_dict (p : Code) (c : Byte) : (dictInsert p c s).dict = Memory.set s.dict s.dictSize.toNat
      { prefixCode := p, suffixByte := c, firstByte := firstOf s p } := rfl
@[simp] theorem dictInsert_arrayEpoch (p : Code) (c : Byte) : (dictInsert p c s).arrayEpoch = s.arrayEpoch := rfl
@[simp] theorem dictInsert_busyLeft (p : Code) (c : Byte) : (dictInsert p c s).busyLeft = s.busyLeft := rfl
@[simp] theorem dictInsert_inProgress (p : Code) (c : Byte) : (dictInsert p c s).inProgress = s.inProgress := rfl
@[simp] theorem dictInsert_cmdq (p : Code) (c : Byte) : (dictInsert p c s).cmdq = s.cmdq := rfl
@[simp] theorem dictInsert_edges (p : Code) (c : Byte) : (dictInsert p c s).edges = s.edges := rfl
@[simp] theorem dictInsert_regRdata (p : Code) (c : Byte) : (dictInsert p c s).regRdata = s.regRdata := rfl
@[simp] theorem dictInsert_outTaken (p : Code) (c : Byte) : (dictInsert p c s).outTaken = s.outTaken := rfl
@[simp] theorem dictInsert_popped (p : Code) (c : Byte) : (dictInsert p c s).popped = s.popped := rfl

/-! ## dictSeed -/

@[simp] theorem dictSeed_mode : (dictSeed s).mode = s.mode := rfl
@[simp] theorem dictSeed_err : (dictSeed s).err = s.err := rfl
@[simp] theorem dictSeed_done : (dictSeed s).done = s.done := rfl
@[simp] theorem dictSeed_wValid : (dictSeed s).wValid = s.wValid := rfl
@[simp] theorem dictSeed_wCode : (dictSeed s).wCode = s.wCode := rfl
@[simp] theorem dictSeed_dictSize : (dictSeed s).dictSize = 256#17 := rfl
@[simp] theorem dictSeed_halfValid : (dictSeed s).halfValid = s.halfValid := rfl
@[simp] theorem dictSeed_halfByte : (dictSeed s).halfByte = s.halfByte := rfl
@[simp] theorem dictSeed_faultCmd : (dictSeed s).faultCmd = s.faultCmd := rfl
@[simp] theorem dictSeed_inCount : (dictSeed s).inCount = s.inCount := rfl
@[simp] theorem dictSeed_outCount : (dictSeed s).outCount = s.outCount := rfl
@[simp] theorem dictSeed_outq : (dictSeed s).outq = s.outq := rfl
@[simp] theorem dictSeed_dict : (dictSeed s).dict = s.dict := rfl
@[simp] theorem dictSeed_arrayEpoch : (dictSeed s).arrayEpoch = s.arrayEpoch := rfl
@[simp] theorem dictSeed_busyLeft : (dictSeed s).busyLeft = s.busyLeft := rfl
@[simp] theorem dictSeed_inProgress : (dictSeed s).inProgress = s.inProgress := rfl
@[simp] theorem dictSeed_cmdq : (dictSeed s).cmdq = s.cmdq := rfl
@[simp] theorem dictSeed_edges : (dictSeed s).edges = s.edges := rfl
@[simp] theorem dictSeed_regRdata : (dictSeed s).regRdata = s.regRdata := rfl
@[simp] theorem dictSeed_outTaken : (dictSeed s).outTaken = s.outTaken := rfl
@[simp] theorem dictSeed_popped : (dictSeed s).popped = s.popped := rfl

/-! ## raiseFault -/

@[simp] theorem raiseFault_mode (cause : ErrCode) (cmd : Word) : (raiseFault cause cmd s).mode = .fault := rfl
@[simp] theorem raiseFault_err (cause : ErrCode) (cmd : Word) : (raiseFault cause cmd s).err = cause := rfl
@[simp] theorem raiseFault_done (cause : ErrCode) (cmd : Word) : (raiseFault cause cmd s).done = false := rfl
@[simp] theorem raiseFault_wValid (cause : ErrCode) (cmd : Word) : (raiseFault cause cmd s).wValid = s.wValid := rfl
@[simp] theorem raiseFault_wCode (cause : ErrCode) (cmd : Word) : (raiseFault cause cmd s).wCode = s.wCode := rfl
@[simp] theorem raiseFault_dictSize (cause : ErrCode) (cmd : Word) : (raiseFault cause cmd s).dictSize = s.dictSize := rfl
@[simp] theorem raiseFault_halfValid (cause : ErrCode) (cmd : Word) : (raiseFault cause cmd s).halfValid = s.halfValid := rfl
@[simp] theorem raiseFault_halfByte (cause : ErrCode) (cmd : Word) : (raiseFault cause cmd s).halfByte = s.halfByte := rfl
@[simp] theorem raiseFault_faultCmd (cause : ErrCode) (cmd : Word) : (raiseFault cause cmd s).faultCmd = cmd := rfl
@[simp] theorem raiseFault_inCount (cause : ErrCode) (cmd : Word) : (raiseFault cause cmd s).inCount = s.inCount := rfl
@[simp] theorem raiseFault_outCount (cause : ErrCode) (cmd : Word) : (raiseFault cause cmd s).outCount = s.outCount := rfl
@[simp] theorem raiseFault_outq (cause : ErrCode) (cmd : Word) : (raiseFault cause cmd s).outq = s.outq := rfl
@[simp] theorem raiseFault_dict (cause : ErrCode) (cmd : Word) : (raiseFault cause cmd s).dict = s.dict := rfl
@[simp] theorem raiseFault_arrayEpoch (cause : ErrCode) (cmd : Word) : (raiseFault cause cmd s).arrayEpoch = s.arrayEpoch := rfl
@[simp] theorem raiseFault_busyLeft (cause : ErrCode) (cmd : Word) : (raiseFault cause cmd s).busyLeft = s.busyLeft := rfl
@[simp] theorem raiseFault_inProgress (cause : ErrCode) (cmd : Word) : (raiseFault cause cmd s).inProgress = s.inProgress := rfl
@[simp] theorem raiseFault_cmdq (cause : ErrCode) (cmd : Word) : (raiseFault cause cmd s).cmdq = s.cmdq := rfl
@[simp] theorem raiseFault_edges (cause : ErrCode) (cmd : Word) : (raiseFault cause cmd s).edges = s.edges := rfl
@[simp] theorem raiseFault_regRdata (cause : ErrCode) (cmd : Word) : (raiseFault cause cmd s).regRdata = s.regRdata := rfl
@[simp] theorem raiseFault_outTaken (cause : ErrCode) (cmd : Word) : (raiseFault cause cmd s).outTaken = s.outTaken := rfl
@[simp] theorem raiseFault_popped (cause : ErrCode) (cmd : Word) : (raiseFault cause cmd s).popped = s.popped := rfl

/-! ## freshStart -/

@[simp] theorem freshStart_mode (m : Mode) : (freshStart m s).mode = m := rfl
@[simp] theorem freshStart_err (m : Mode) : (freshStart m s).err = .noError := rfl
@[simp] theorem freshStart_done (m : Mode) : (freshStart m s).done = false := rfl
@[simp] theorem freshStart_wValid (m : Mode) : (freshStart m s).wValid = false := rfl
@[simp] theorem freshStart_wCode (m : Mode) : (freshStart m s).wCode = 0#16 := rfl
@[simp] theorem freshStart_dictSize (m : Mode) : (freshStart m s).dictSize = 256#17 := rfl
@[simp] theorem freshStart_halfValid (m : Mode) : (freshStart m s).halfValid = false := rfl
@[simp] theorem freshStart_halfByte (m : Mode) : (freshStart m s).halfByte = 0#8 := rfl
@[simp] theorem freshStart_faultCmd (m : Mode) : (freshStart m s).faultCmd = 0#16 := rfl
@[simp] theorem freshStart_inCount (m : Mode) : (freshStart m s).inCount = 0#32 := rfl
@[simp] theorem freshStart_outCount (m : Mode) : (freshStart m s).outCount = 0#32 := rfl
@[simp] theorem freshStart_outq (m : Mode) : (freshStart m s).outq = [] := rfl
@[simp] theorem freshStart_dict (m : Mode) : (freshStart m s).dict = s.dict := rfl
@[simp] theorem freshStart_arrayEpoch (m : Mode) : (freshStart m s).arrayEpoch = s.arrayEpoch := rfl
@[simp] theorem freshStart_busyLeft (m : Mode) : (freshStart m s).busyLeft = s.busyLeft := rfl
@[simp] theorem freshStart_inProgress (m : Mode) : (freshStart m s).inProgress = s.inProgress := rfl
@[simp] theorem freshStart_cmdq (m : Mode) : (freshStart m s).cmdq = s.cmdq := rfl
@[simp] theorem freshStart_edges (m : Mode) : (freshStart m s).edges = s.edges := rfl
@[simp] theorem freshStart_regRdata (m : Mode) : (freshStart m s).regRdata = s.regRdata := rfl
@[simp] theorem freshStart_outTaken (m : Mode) : (freshStart m s).outTaken = s.outTaken := rfl
@[simp] theorem freshStart_popped (m : Mode) : (freshStart m s).popped = [] := rfl

/-! ## resetCore -/

@[simp] theorem resetCore_mode (gap : Nat) : (resetCore gap s).mode = .idle := rfl
@[simp] theorem resetCore_err (gap : Nat) : (resetCore gap s).err = .noError := rfl
@[simp] theorem resetCore_done (gap : Nat) : (resetCore gap s).done = false := rfl
@[simp] theorem resetCore_wValid (gap : Nat) : (resetCore gap s).wValid = false := rfl
@[simp] theorem resetCore_wCode (gap : Nat) : (resetCore gap s).wCode = 0#16 := rfl
@[simp] theorem resetCore_dictSize (gap : Nat) : (resetCore gap s).dictSize = 256#17 := rfl
@[simp] theorem resetCore_halfValid (gap : Nat) : (resetCore gap s).halfValid = false := rfl
@[simp] theorem resetCore_halfByte (gap : Nat) : (resetCore gap s).halfByte = 0#8 := rfl
@[simp] theorem resetCore_faultCmd (gap : Nat) : (resetCore gap s).faultCmd = 0#16 := rfl
@[simp] theorem resetCore_inCount (gap : Nat) : (resetCore gap s).inCount = 0#32 := rfl
@[simp] theorem resetCore_outCount (gap : Nat) : (resetCore gap s).outCount = 0#32 := rfl
@[simp] theorem resetCore_outq (gap : Nat) : (resetCore gap s).outq = [] := rfl
@[simp] theorem resetCore_dict (gap : Nat) : (resetCore gap s).dict = [] := rfl
@[simp] theorem resetCore_arrayEpoch (gap : Nat) : (resetCore gap s).arrayEpoch = s.arrayEpoch + 1 := rfl
@[simp] theorem resetCore_busyLeft (gap : Nat) : (resetCore gap s).busyLeft = gap := rfl
@[simp] theorem resetCore_inProgress (gap : Nat) : (resetCore gap s).inProgress = none := rfl
@[simp] theorem resetCore_cmdq (gap : Nat) : (resetCore gap s).cmdq = s.cmdq := rfl
@[simp] theorem resetCore_edges (gap : Nat) : (resetCore gap s).edges = s.edges := rfl
@[simp] theorem resetCore_regRdata (gap : Nat) : (resetCore gap s).regRdata = s.regRdata := rfl
@[simp] theorem resetCore_outTaken (gap : Nat) : (resetCore gap s).outTaken = s.outTaken := rfl
@[simp] theorem resetCore_popped (gap : Nat) : (resetCore gap s).popped = [] := rfl

/-! ## samplePorts -/

@[simp] theorem samplePorts_mode (e : Edge) (rest : List Edge) : (samplePorts e rest s).mode = s.mode := rfl
@[simp] theorem samplePorts_err (e : Edge) (rest : List Edge) : (samplePorts e rest s).err = s.err := rfl
@[simp] theorem samplePorts_done (e : Edge) (rest : List Edge) : (samplePorts e rest s).done = s.done := rfl
@[simp] theorem samplePorts_wValid (e : Edge) (rest : List Edge) : (samplePorts e rest s).wValid = s.wValid := rfl
@[simp] theorem samplePorts_wCode (e : Edge) (rest : List Edge) : (samplePorts e rest s).wCode = s.wCode := rfl
@[simp] theorem samplePorts_dictSize (e : Edge) (rest : List Edge) : (samplePorts e rest s).dictSize = s.dictSize := rfl
@[simp] theorem samplePorts_halfValid (e : Edge) (rest : List Edge) : (samplePorts e rest s).halfValid = s.halfValid := rfl
@[simp] theorem samplePorts_halfByte (e : Edge) (rest : List Edge) : (samplePorts e rest s).halfByte = s.halfByte := rfl
@[simp] theorem samplePorts_faultCmd (e : Edge) (rest : List Edge) : (samplePorts e rest s).faultCmd = s.faultCmd := rfl
@[simp] theorem samplePorts_inCount (e : Edge) (rest : List Edge) : (samplePorts e rest s).inCount = s.inCount := rfl
@[simp] theorem samplePorts_outCount (e : Edge) (rest : List Edge) : (samplePorts e rest s).outCount = s.outCount := rfl
@[simp] theorem samplePorts_outq (e : Edge) (rest : List Edge) : (samplePorts e rest s).outq = s.outq := rfl
@[simp] theorem samplePorts_dict (e : Edge) (rest : List Edge) : (samplePorts e rest s).dict = s.dict := rfl
@[simp] theorem samplePorts_arrayEpoch (e : Edge) (rest : List Edge) : (samplePorts e rest s).arrayEpoch = s.arrayEpoch := rfl
@[simp] theorem samplePorts_busyLeft (e : Edge) (rest : List Edge) : (samplePorts e rest s).busyLeft = s.busyLeft := rfl
@[simp] theorem samplePorts_inProgress (e : Edge) (rest : List Edge) : (samplePorts e rest s).inProgress = s.inProgress := rfl
@[simp] theorem samplePorts_cmdq (e : Edge) (rest : List Edge) : (samplePorts e rest s).cmdq = s.cmdq := rfl
@[simp] theorem samplePorts_edges (e : Edge) (rest : List Edge) : (samplePorts e rest s).edges = rest := rfl
@[simp] theorem samplePorts_regRdata (e : Edge) (rest : List Edge) : (samplePorts e rest s).regRdata = s.readReg e.pick e.regAddr := rfl
@[simp] theorem samplePorts_outTaken (e : Edge) (rest : List Edge) : (samplePorts e rest s).outTaken = none := rfl
@[simp] theorem samplePorts_popped (e : Edge) (rest : List Edge) : (samplePorts e rest s).popped = s.popped := rfl

/-! ## restReady -/

@[simp] theorem restReady_mode (gap : Nat) : (restReady gap s).mode = s.mode := rfl
@[simp] theorem restReady_err (gap : Nat) : (restReady gap s).err = s.err := rfl
@[simp] theorem restReady_done (gap : Nat) : (restReady gap s).done = s.done := rfl
@[simp] theorem restReady_wValid (gap : Nat) : (restReady gap s).wValid = s.wValid := rfl
@[simp] theorem restReady_wCode (gap : Nat) : (restReady gap s).wCode = s.wCode := rfl
@[simp] theorem restReady_dictSize (gap : Nat) : (restReady gap s).dictSize = s.dictSize := rfl
@[simp] theorem restReady_halfValid (gap : Nat) : (restReady gap s).halfValid = s.halfValid := rfl
@[simp] theorem restReady_halfByte (gap : Nat) : (restReady gap s).halfByte = s.halfByte := rfl
@[simp] theorem restReady_faultCmd (gap : Nat) : (restReady gap s).faultCmd = s.faultCmd := rfl
@[simp] theorem restReady_inCount (gap : Nat) : (restReady gap s).inCount = s.inCount := rfl
@[simp] theorem restReady_outCount (gap : Nat) : (restReady gap s).outCount = s.outCount := rfl
@[simp] theorem restReady_outq (gap : Nat) : (restReady gap s).outq = s.outq := rfl
@[simp] theorem restReady_dict (gap : Nat) : (restReady gap s).dict = s.dict := rfl
@[simp] theorem restReady_arrayEpoch (gap : Nat) : (restReady gap s).arrayEpoch = s.arrayEpoch := rfl
@[simp] theorem restReady_busyLeft (gap : Nat) : (restReady gap s).busyLeft = gap := rfl
@[simp] theorem restReady_inProgress (gap : Nat) : (restReady gap s).inProgress = none := rfl
@[simp] theorem restReady_cmdq (gap : Nat) : (restReady gap s).cmdq = s.cmdq := rfl
@[simp] theorem restReady_edges (gap : Nat) : (restReady gap s).edges = s.edges := rfl
@[simp] theorem restReady_regRdata (gap : Nat) : (restReady gap s).regRdata = s.regRdata := rfl
@[simp] theorem restReady_outTaken (gap : Nat) : (restReady gap s).outTaken = s.outTaken := rfl
@[simp] theorem restReady_popped (gap : Nat) : (restReady gap s).popped = s.popped := rfl

/-! ## acceptWord -/

@[simp] theorem acceptWord_mode (gap : Nat) (rest : List Word) : (acceptWord gap rest s).mode = s.mode := rfl
@[simp] theorem acceptWord_err (gap : Nat) (rest : List Word) : (acceptWord gap rest s).err = s.err := rfl
@[simp] theorem acceptWord_done (gap : Nat) (rest : List Word) : (acceptWord gap rest s).done = s.done := rfl
@[simp] theorem acceptWord_wValid (gap : Nat) (rest : List Word) : (acceptWord gap rest s).wValid = s.wValid := rfl
@[simp] theorem acceptWord_wCode (gap : Nat) (rest : List Word) : (acceptWord gap rest s).wCode = s.wCode := rfl
@[simp] theorem acceptWord_dictSize (gap : Nat) (rest : List Word) : (acceptWord gap rest s).dictSize = s.dictSize := rfl
@[simp] theorem acceptWord_halfValid (gap : Nat) (rest : List Word) : (acceptWord gap rest s).halfValid = s.halfValid := rfl
@[simp] theorem acceptWord_halfByte (gap : Nat) (rest : List Word) : (acceptWord gap rest s).halfByte = s.halfByte := rfl
@[simp] theorem acceptWord_faultCmd (gap : Nat) (rest : List Word) : (acceptWord gap rest s).faultCmd = s.faultCmd := rfl
@[simp] theorem acceptWord_inCount (gap : Nat) (rest : List Word) : (acceptWord gap rest s).inCount = s.inCount := rfl
@[simp] theorem acceptWord_outCount (gap : Nat) (rest : List Word) : (acceptWord gap rest s).outCount = s.outCount := rfl
@[simp] theorem acceptWord_outq (gap : Nat) (rest : List Word) : (acceptWord gap rest s).outq = s.outq := rfl
@[simp] theorem acceptWord_dict (gap : Nat) (rest : List Word) : (acceptWord gap rest s).dict = s.dict := rfl
@[simp] theorem acceptWord_arrayEpoch (gap : Nat) (rest : List Word) : (acceptWord gap rest s).arrayEpoch = s.arrayEpoch := rfl
@[simp] theorem acceptWord_busyLeft (gap : Nat) (rest : List Word) : (acceptWord gap rest s).busyLeft = gap := rfl
@[simp] theorem acceptWord_inProgress (gap : Nat) (rest : List Word) : (acceptWord gap rest s).inProgress = some s.view := rfl
@[simp] theorem acceptWord_cmdq (gap : Nat) (rest : List Word) : (acceptWord gap rest s).cmdq = rest := rfl
@[simp] theorem acceptWord_edges (gap : Nat) (rest : List Word) : (acceptWord gap rest s).edges = s.edges := rfl
@[simp] theorem acceptWord_regRdata (gap : Nat) (rest : List Word) : (acceptWord gap rest s).regRdata = s.regRdata := rfl
@[simp] theorem acceptWord_outTaken (gap : Nat) (rest : List Word) : (acceptWord gap rest s).outTaken = s.outTaken := rfl
@[simp] theorem acceptWord_popped (gap : Nat) (rest : List Word) : (acceptWord gap rest s).popped = s.popped := rfl

/-! ## encodeMiss -/

@[simp] theorem encodeMiss_mode (c : Byte) : (encodeMiss c s).mode = s.mode := rfl
@[simp] theorem encodeMiss_err (c : Byte) : (encodeMiss c s).err = s.err := rfl
@[simp] theorem encodeMiss_done (c : Byte) : (encodeMiss c s).done = s.done := rfl
@[simp] theorem encodeMiss_wValid (c : Byte) : (encodeMiss c s).wValid = s.wValid := rfl
@[simp] theorem encodeMiss_wCode (c : Byte) : (encodeMiss c s).wCode = rootCode c := rfl
@[simp] theorem encodeMiss_dictSize (c : Byte) : (encodeMiss c s).dictSize = s.dictSize + 1#17 := rfl
@[simp] theorem encodeMiss_halfValid (c : Byte) : (encodeMiss c s).halfValid = s.halfValid := rfl
@[simp] theorem encodeMiss_halfByte (c : Byte) : (encodeMiss c s).halfByte = s.halfByte := rfl
@[simp] theorem encodeMiss_faultCmd (c : Byte) : (encodeMiss c s).faultCmd = s.faultCmd := rfl
@[simp] theorem encodeMiss_inCount (c : Byte) : (encodeMiss c s).inCount = s.inCount := rfl
@[simp] theorem encodeMiss_outCount (c : Byte) : (encodeMiss c s).outCount = s.outCount + 2#32 := rfl
@[simp] theorem encodeMiss_outq (c : Byte) : (encodeMiss c s).outq = s.outq ++ codeBytes s.wCode := rfl
@[simp] theorem encodeMiss_arrayEpoch (c : Byte) : (encodeMiss c s).arrayEpoch = s.arrayEpoch := rfl
@[simp] theorem encodeMiss_busyLeft (c : Byte) : (encodeMiss c s).busyLeft = s.busyLeft := rfl
@[simp] theorem encodeMiss_inProgress (c : Byte) : (encodeMiss c s).inProgress = s.inProgress := rfl
@[simp] theorem encodeMiss_cmdq (c : Byte) : (encodeMiss c s).cmdq = s.cmdq := rfl
@[simp] theorem encodeMiss_edges (c : Byte) : (encodeMiss c s).edges = s.edges := rfl
@[simp] theorem encodeMiss_regRdata (c : Byte) : (encodeMiss c s).regRdata = s.regRdata := rfl
@[simp] theorem encodeMiss_outTaken (c : Byte) : (encodeMiss c s).outTaken = s.outTaken := rfl
@[simp] theorem encodeMiss_popped (c : Byte) : (encodeMiss c s).popped = s.popped := rfl

/-! ## view -/

@[simp] theorem view_mode : s.view.mode = s.mode := rfl
@[simp] theorem view_err : s.view.err = s.err := rfl
@[simp] theorem view_done : s.view.done = s.done := rfl
@[simp] theorem view_outEmpty : s.view.outEmpty = s.outEmpty := rfl
@[simp] theorem view_wValid : s.view.wValid = s.wValid := rfl
@[simp] theorem view_halfValid : s.view.halfValid = s.halfValid := rfl
@[simp] theorem view_halfByte : s.view.halfByte = s.halfByte := rfl
@[simp] theorem view_dictSize : s.view.dictSize = s.dictSize := rfl
@[simp] theorem view_wCode : s.view.wCode = s.wCode := rfl
@[simp] theorem view_inCount : s.view.inCount = s.inCount := rfl
@[simp] theorem view_outCount : s.view.outCount = s.outCount := rfl
@[simp] theorem view_faultCmd : s.view.faultCmd = s.faultCmd := rfl

/-! ## popByte -/

@[simp] theorem popByte_mode : (popByte s).mode = s.mode := by unfold popByte; split <;> rfl
@[simp] theorem popByte_err : (popByte s).err = s.err := by unfold popByte; split <;> rfl
@[simp] theorem popByte_done : (popByte s).done = s.done := by unfold popByte; split <;> rfl
@[simp] theorem popByte_wValid : (popByte s).wValid = s.wValid := by unfold popByte; split <;> rfl
@[simp] theorem popByte_wCode : (popByte s).wCode = s.wCode := by unfold popByte; split <;> rfl
@[simp] theorem popByte_dictSize : (popByte s).dictSize = s.dictSize := by unfold popByte; split <;> rfl
@[simp] theorem popByte_halfValid : (popByte s).halfValid = s.halfValid := by unfold popByte; split <;> rfl
@[simp] theorem popByte_halfByte : (popByte s).halfByte = s.halfByte := by unfold popByte; split <;> rfl
@[simp] theorem popByte_faultCmd : (popByte s).faultCmd = s.faultCmd := by unfold popByte; split <;> rfl
@[simp] theorem popByte_inCount : (popByte s).inCount = s.inCount := by unfold popByte; split <;> rfl
@[simp] theorem popByte_outCount : (popByte s).outCount = s.outCount := by unfold popByte; split <;> rfl
@[simp] theorem popByte_dict : (popByte s).dict = s.dict := by unfold popByte; split <;> rfl
@[simp] theorem popByte_arrayEpoch : (popByte s).arrayEpoch = s.arrayEpoch := by unfold popByte; split <;> rfl
@[simp] theorem popByte_busyLeft : (popByte s).busyLeft = s.busyLeft := by unfold popByte; split <;> rfl
@[simp] theorem popByte_inProgress : (popByte s).inProgress = s.inProgress := by unfold popByte; split <;> rfl
@[simp] theorem popByte_cmdq : (popByte s).cmdq = s.cmdq := by unfold popByte; split <;> rfl
@[simp] theorem popByte_edges : (popByte s).edges = s.edges := by unfold popByte; split <;> rfl
@[simp] theorem popByte_regRdata : (popByte s).regRdata = s.regRdata := by unfold popByte; split <;> rfl

/-! ## popIfReady -/

@[simp] theorem popIfReady_mode (e : Edge) : (popIfReady e s).mode = s.mode := by unfold popIfReady; split <;> simp
@[simp] theorem popIfReady_err (e : Edge) : (popIfReady e s).err = s.err := by unfold popIfReady; split <;> simp
@[simp] theorem popIfReady_done (e : Edge) : (popIfReady e s).done = s.done := by unfold popIfReady; split <;> simp
@[simp] theorem popIfReady_wValid (e : Edge) : (popIfReady e s).wValid = s.wValid := by unfold popIfReady; split <;> simp
@[simp] theorem popIfReady_wCode (e : Edge) : (popIfReady e s).wCode = s.wCode := by unfold popIfReady; split <;> simp
@[simp] theorem popIfReady_dictSize (e : Edge) : (popIfReady e s).dictSize = s.dictSize := by unfold popIfReady; split <;> simp
@[simp] theorem popIfReady_halfValid (e : Edge) : (popIfReady e s).halfValid = s.halfValid := by unfold popIfReady; split <;> simp
@[simp] theorem popIfReady_halfByte (e : Edge) : (popIfReady e s).halfByte = s.halfByte := by unfold popIfReady; split <;> simp
@[simp] theorem popIfReady_faultCmd (e : Edge) : (popIfReady e s).faultCmd = s.faultCmd := by unfold popIfReady; split <;> simp
@[simp] theorem popIfReady_inCount (e : Edge) : (popIfReady e s).inCount = s.inCount := by unfold popIfReady; split <;> simp
@[simp] theorem popIfReady_outCount (e : Edge) : (popIfReady e s).outCount = s.outCount := by unfold popIfReady; split <;> simp
@[simp] theorem popIfReady_dict (e : Edge) : (popIfReady e s).dict = s.dict := by unfold popIfReady; split <;> simp
@[simp] theorem popIfReady_arrayEpoch (e : Edge) : (popIfReady e s).arrayEpoch = s.arrayEpoch := by unfold popIfReady; split <;> simp
@[simp] theorem popIfReady_busyLeft (e : Edge) : (popIfReady e s).busyLeft = s.busyLeft := by unfold popIfReady; split <;> simp
@[simp] theorem popIfReady_inProgress (e : Edge) : (popIfReady e s).inProgress = s.inProgress := by unfold popIfReady; split <;> simp
@[simp] theorem popIfReady_cmdq (e : Edge) : (popIfReady e s).cmdq = s.cmdq := by unfold popIfReady; split <;> simp
@[simp] theorem popIfReady_edges (e : Edge) : (popIfReady e s).edges = s.edges := by unfold popIfReady; split <;> simp
@[simp] theorem popIfReady_regRdata (e : Edge) : (popIfReady e s).regRdata = s.regRdata := by unfold popIfReady; split <;> simp

/-! ## waitBusy -/

@[simp] theorem waitBusy_mode (queued : Nat) : (waitBusy queued s).mode = s.mode := by unfold waitBusy; split <;> rfl
@[simp] theorem waitBusy_err (queued : Nat) : (waitBusy queued s).err = s.err := by unfold waitBusy; split <;> rfl
@[simp] theorem waitBusy_done (queued : Nat) : (waitBusy queued s).done = s.done := by unfold waitBusy; split <;> rfl
@[simp] theorem waitBusy_wValid (queued : Nat) : (waitBusy queued s).wValid = s.wValid := by unfold waitBusy; split <;> rfl
@[simp] theorem waitBusy_wCode (queued : Nat) : (waitBusy queued s).wCode = s.wCode := by unfold waitBusy; split <;> rfl
@[simp] theorem waitBusy_dictSize (queued : Nat) : (waitBusy queued s).dictSize = s.dictSize := by unfold waitBusy; split <;> rfl
@[simp] theorem waitBusy_halfValid (queued : Nat) : (waitBusy queued s).halfValid = s.halfValid := by unfold waitBusy; split <;> rfl
@[simp] theorem waitBusy_halfByte (queued : Nat) : (waitBusy queued s).halfByte = s.halfByte := by unfold waitBusy; split <;> rfl
@[simp] theorem waitBusy_faultCmd (queued : Nat) : (waitBusy queued s).faultCmd = s.faultCmd := by unfold waitBusy; split <;> rfl
@[simp] theorem waitBusy_inCount (queued : Nat) : (waitBusy queued s).inCount = s.inCount := by unfold waitBusy; split <;> rfl
@[simp] theorem waitBusy_outCount (queued : Nat) : (waitBusy queued s).outCount = s.outCount := by unfold waitBusy; split <;> rfl
@[simp] theorem waitBusy_outq (queued : Nat) : (waitBusy queued s).outq = s.outq := by unfold waitBusy; split <;> rfl
@[simp] theorem waitBusy_dict (queued : Nat) : (waitBusy queued s).dict = s.dict := by unfold waitBusy; split <;> rfl
@[simp] theorem waitBusy_arrayEpoch (queued : Nat) : (waitBusy queued s).arrayEpoch = s.arrayEpoch := by unfold waitBusy; split <;> rfl
@[simp] theorem waitBusy_inProgress (queued : Nat) : (waitBusy queued s).inProgress = s.inProgress := by unfold waitBusy; split <;> rfl
@[simp] theorem waitBusy_cmdq (queued : Nat) : (waitBusy queued s).cmdq = s.cmdq := by unfold waitBusy; split <;> rfl
@[simp] theorem waitBusy_edges (queued : Nat) : (waitBusy queued s).edges = s.edges := by unfold waitBusy; split <;> rfl
@[simp] theorem waitBusy_regRdata (queued : Nat) : (waitBusy queued s).regRdata = s.regRdata := by unfold waitBusy; split <;> rfl
@[simp] theorem waitBusy_outTaken (queued : Nat) : (waitBusy queued s).outTaken = s.outTaken := by unfold waitBusy; split <;> rfl
@[simp] theorem waitBusy_popped (queued : Nat) : (waitBusy queued s).popped = s.popped := by unfold waitBusy; split <;> rfl

/-- A pop moves one byte from the queue to the popped bytes, or does nothing: the operation's bytes are the same. -/
@[simp] theorem popByte_bytes : (popByte s).popped ++ (popByte s).outq = s.popped ++ s.outq := by
  unfold popByte; split <;> simp_all

@[simp] theorem popIfReady_bytes (e : Edge) :
    (popIfReady e s).popped ++ (popIfReady e s).outq = s.popped ++ s.outq := by
  unfold popIfReady; split <;> simp

theorem popByte_outq : (popByte s).outq = s.outq.tail := by
  unfold popByte; split <;> simp_all

theorem popByte_popped : (popByte s).popped = s.popped ++ s.outq.take 1 := by
  unfold popByte; split <;> simp_all

@[simp] theorem emitCode_eq (k : Code) : emitCode k s = emit (codeBytes k) s := rfl

end Sys2Proof.Machine
end

