-- ==== Sys2Proof/Laws/Memory.lean ====
section
/-! SUPPORT. The laws of the dictionary table: a read after a write, the canonical form, and which codes a write lists. -/

namespace Sys2Proof.Machine

open Sys2Proof

theorem lookup_set_same (m : Memory) (k : Nat) (e : Entry) : Memory.lookup (Memory.set m k e) k = some e := by
  induction m with
  | nil => simp [Memory.set, Memory.lookup]
  | cons a rest ih =>
    obtain ⟨j, f⟩ := a
    simp only [Memory.set]
    split
    · simp [Memory.lookup]
    · split
      · simp [Memory.lookup]
      · next hlt hne => simp [Memory.lookup, Ne.symm hne, ih]

theorem lookup_set_other (m : Memory) {k k' : Nat} (e : Entry) (h : k' ≠ k) :
    Memory.lookup (Memory.set m k e) k' = Memory.lookup m k' := by
  induction m with
  | nil => simp [Memory.set, Memory.lookup, h.symm]
  | cons a rest ih =>
    obtain ⟨j, f⟩ := a
    simp only [Memory.set]
    split
    · simp [Memory.lookup, h.symm]
    · split
      · next hlt heq => subst heq; simp [Memory.lookup, h.symm]
      · simp [Memory.lookup, ih]

/-- The canonical form of a non-empty table: its first code is below all others, and the rest is in canonical form. -/
theorem wf_cons (a : Nat × Entry) (rest : Memory) :
    Memory.wf (a :: rest) = true ↔ (∀ b ∈ rest, a.1 < b.1) ∧ Memory.wf rest = true := by
  induction rest generalizing a with
  | nil => simp [Memory.wf]
  | cons b rest ih =>
    simp only [Memory.wf, Bool.and_eq_true, decide_eq_true_eq, ih b, List.mem_cons, forall_eq_or_imp]
    constructor
    · rintro ⟨hab, hb, hr⟩
      exact ⟨⟨hab, fun c hc => Nat.lt_trans hab (hb c hc)⟩, hb, hr⟩
    · rintro ⟨⟨hab, _⟩, hb, hr⟩
      exact ⟨hab, hb, hr⟩

theorem mem_set {m : Memory} {k : Nat} {e : Entry} {p : Nat × Entry} (h : p ∈ Memory.set m k e) :
    p = (k, e) ∨ p ∈ m := by
  induction m with
  | nil => simpa [Memory.set] using h
  | cons a rest ih =>
    obtain ⟨j, f⟩ := a
    simp only [Memory.set] at h
    split at h
    · simpa using h
    · split at h
      · simp only [List.mem_cons] at h ⊢
        rcases h with h | h
        · exact .inl h
        · exact .inr (.inr h)
      · simp only [List.mem_cons] at h ⊢
        rcases h with h | h
        · exact .inr (.inl h)
        · rcases ih h with h | h
          · exact .inl h
          · exact .inr (.inr h)

theorem wf_set {m : Memory} (k : Nat) (e : Entry) (h : Memory.wf m = true) : Memory.wf (Memory.set m k e) = true := by
  induction m with
  | nil => simp [Memory.set, Memory.wf]
  | cons a rest ih =>
    obtain ⟨j, f⟩ := a
    have hc := (wf_cons _ _).1 h
    simp only [Memory.set]
    split
    · next hlt =>
      rw [wf_cons]
      refine ⟨fun b hb => ?_, h⟩
      rcases List.mem_cons.1 hb with rfl | hb
      · exact hlt
      · exact Nat.lt_trans hlt (hc.1 b hb)
    · split
      · next heq => subst heq; exact (wf_cons _ _).2 hc
      · next hlt hne =>
        rw [wf_cons]
        refine ⟨fun b hb => ?_, ih hc.2⟩
        rcases mem_set hb with rfl | hb
        · show j < k; omega
        · exact hc.1 b hb

theorem wf_dictInsert {s : State} (p : Code) (c : Byte) (h : Memory.wf s.dict = true) :
    Memory.wf (dictInsert p c s).dict = true := wf_set _ _ h

theorem wf_reset : Memory.wf State.reset.dict = true := rfl

theorem wf_resetCore (gap : Nat) (s : State) : Memory.wf (resetCore gap s).dict = true := rfl

/-- `DictRead` looks at the arrays only. -/
theorem dictRead_congr {s t : State} (hd : s.dict = t.dict) (he : s.arrayEpoch = t.arrayEpoch) :
    dictRead s = dictRead t := by
  funext k; simp [dictRead, hd, he]

theorem firstOf_congr {s t : State} (hd : s.dict = t.dict) (he : s.arrayEpoch = t.arrayEpoch) :
    firstOf s = firstOf t := by
  funext k; simp [firstOf, dictRead_congr hd he]

theorem walkPrefixes_congr {s t : State} (hd : s.dict = t.dict) (he : s.arrayEpoch = t.arrayEpoch) :
    walkPrefixes s = walkPrefixes t := by
  funext n
  induction n with
  | zero => funext k met; rfl
  | succ n ih => funext k met; simp [walkPrefixes, dictRead_congr hd he, ih]

theorem strOf_congr {s t : State} (hd : s.dict = t.dict) (he : s.arrayEpoch = t.arrayEpoch) : strOf s = strOf t := by
  funext k; simp [strOf, walkPrefixes_congr hd he]

theorem indexLookup_congr {s t : State} (hd : s.dict = t.dict) (he : s.arrayEpoch = t.arrayEpoch)
    (hz : s.dictSize = t.dictSize) : indexLookup s = indexLookup t := by
  funext p c
  have hm : entryMatches s p c = entryMatches t p c := by
    funext k; simp [entryMatches, dictRead_congr hd he]
  simp [indexLookup, storedCodes, hz, hm]

/-- What `DictInsert` writes is read back at the code it was written to, and every other code reads as before. -/
theorem dictRead_dictInsert (s : State) (p : Code) (c : Byte) (k : Nat) :
    dictRead (dictInsert p c s) k =
      if k = s.dictSize.toNat then { prefixCode := p, suffixByte := c, firstByte := firstOf s p } else dictRead s k := by
  split
  · next h => subst h; simp [dictRead, lookup_set_same]
  · next h => simp [dictRead, lookup_set_other _ _ h]

/-- An answer of the index is a stored code whose entry is the one asked for (R44). -/
theorem indexLookup_some {s : State} {p : Code} {c : Byte} {k : Nat} (h : indexLookup s p c = some k) :
    256 ≤ k ∧ k < s.dictSize.toNat ∧ (dictRead s k).prefixCode = p ∧ (dictRead s k).suffixByte = c := by
  have hp := List.find?_some h
  have hm := List.mem_of_find?_eq_some h
  simp only [storedCodes, List.mem_range'_1] at hm
  simp only [entryMatches, Bool.and_eq_true, beq_iff_eq] at hp
  exact ⟨hm.1, by omega, hp.1, hp.2⟩

/-- Where the index answers none, no stored code has that entry (R44). -/
theorem indexLookup_none {s : State} {p : Code} {c : Byte} (h : indexLookup s p c = none) {k : Nat} (hk : 256 ≤ k)
    (hks : k < s.dictSize.toNat) : ¬((dictRead s k).prefixCode = p ∧ (dictRead s k).suffixByte = c) := by
  have hx := List.find?_eq_none.1 h k (by simp only [storedCodes, List.mem_range'_1]; omega)
  simpa [entryMatches] using hx

end Sys2Proof.Machine
end

