-- ==== Sys2Proof/Laws/Strings.lean ====
section
/-! SUPPORT. The laws of Str and First on a dictionary whose entries lie above their prefixes (10_state.md R30 item 7). -/

namespace Sys2Proof.Machine

open Sys2Proof

/-- The bytes already met only stand behind what the walk finds. -/
theorem walkPrefixes_met (s : State) (n : Nat) (k : Code) (met : List Byte) :
    walkPrefixes s n k met = walkPrefixes s n k [] ++ met := by
  induction n generalizing k met with
  | zero => simp [walkPrefixes]
  | succ n ih =>
    simp only [walkPrefixes]
    split
    · simp
    · rw [ih, ih (met := [_])]; simp

/-- One link of the walk. -/
theorem walkPrefixes_stored (s : State) (n : Nat) {k : Code} (h : ¬k.toNat < 256) :
    walkPrefixes s (n + 1) k [] =
      walkPrefixes s n (dictRead s k.toNat).prefixCode [] ++ [(dictRead s k.toNat).suffixByte] := by
  rw [walkPrefixes, if_neg h, walkPrefixes_met]

/-- Every stored code below `b` lies above its prefix. -/
def Descends (s : State) (b : Nat) : Prop := ∀ k, 256 ≤ k → k < b → (dictRead s k).prefixCode.toNat < k

/-- Any two walks that are long enough find the same string. -/
theorem walkPrefixes_fuel {s : State} {b : Nat} (hd : Descends s b) {n m : Nat} {k : Code} (hk : k.toNat < b)
    (hn : k.toNat < n) (hm : k.toNat < m) : walkPrefixes s n k [] = walkPrefixes s m k [] := by
  induction n generalizing m k with
  | zero => omega
  | succ n ih =>
    obtain ⟨m, rfl⟩ : ∃ m', m = m' + 1 := ⟨m - 1, by omega⟩
    by_cases h : k.toNat < 256
    · simp [walkPrefixes, h]
    · have hp := hd k.toNat (by omega) hk
      rw [walkPrefixes_stored s n h, walkPrefixes_stored s m h, ih (m := m) (by omega) (by omega) (by omega)]

/-- `Str` of a root (R45). -/
theorem strOf_root (s : State) {k : Code} (h : k.toNat < 256) : strOf s k = [codeLow k] := by
  simp [strOf, walkPrefixes, h]

/-- `Str` of a stored code (R45). -/
theorem strOf_stored {s : State} {b : Nat} (hd : Descends s b) {k : Code} (h : 256 ≤ k.toNat) (hk : k.toNat < b) :
    strOf s k = strOf s (dictRead s k.toNat).prefixCode ++ [(dictRead s k.toNat).suffixByte] := by
  have hp := hd k.toNat h hk
  unfold strOf
  rw [walkPrefixes_stored s _ (by omega), walkPrefixes_fuel hd (m := (dictRead s k.toNat).prefixCode.toNat + 1)]
  all_goals omega

/-- Two dictionaries that read alike below `b` have the same strings there. -/
theorem strOf_agree {s t : State} {b : Nat} (hd : Descends s b)
    (h : ∀ k, 256 ≤ k → k < b → dictRead s k = dictRead t k) {k : Code} (hk : k.toNat < b) : strOf s k = strOf t k := by
  have hdt : Descends t b := fun j hj hjb => by rw [← h j hj hjb]; exact hd j hj hjb
  generalize hn : k.toNat = n
  induction n using Nat.strongRecOn generalizing k with
  | ind n ih =>
    by_cases h256 : k.toNat < 256
    · rw [strOf_root s h256, strOf_root t h256]
    · have hp := hd k.toNat (by omega) hk
      rw [strOf_stored hd (by omega) hk, strOf_stored hdt (by omega) hk, ← h k.toNat (by omega) hk]
      rw [ih _ (by omega) (by omega) rfl]

/-- R46: the length of a stored string. -/
theorem strOf_length {s : State} {b : Nat} (hd : Descends s b) {k : Code} (hk : k.toNat < b) :
    (k.toNat < 256 → (strOf s k).length = 1) ∧
    (256 ≤ k.toNat → 2 ≤ (strOf s k).length ∧ (strOf s k).length ≤ k.toNat - 254) := by
  generalize hn : k.toNat = n
  induction n using Nat.strongRecOn generalizing k with
  | ind n ih =>
    subst hn
    constructor
    · intro h; simp [strOf_root s h]
    · intro h
      have hp := hd k.toNat h hk
      have hi := ih _ hp (by omega) rfl
      rw [strOf_stored hd h hk]
      simp only [List.length_append, List.length_cons, List.length_nil]
      by_cases h2 : (dictRead s k.toNat).prefixCode.toNat < 256
      · have := hi.1 h2; omega
      · have := hi.2 (by omega); omega

theorem strOf_ne_nil {s : State} {b : Nat} (hd : Descends s b) {k : Code} (hk : k.toNat < b) : strOf s k ≠ [] := by
  have h := strOf_length hd hk
  intro hnil
  rw [hnil] at h
  by_cases h2 : k.toNat < 256
  · have := h.1 h2; simp at this
  · have := h.2 (by omega); simp at this

/-- R43: `First(k)` is the first byte of `Str(k)`. -/
theorem strOf_head {s : State} {b : Nat} (hd : Descends s b)
    (hf : ∀ k, 256 ≤ k → k < b → (dictRead s k).firstByte = firstOf s (dictRead s k).prefixCode) {k : Code}
    (hk : k.toNat < b) : (strOf s k).head? = some (firstOf s k) := by
  generalize hn : k.toNat = n
  induction n using Nat.strongRecOn generalizing k with
  | ind n ih =>
    subst hn
    by_cases h256 : k.toNat < 256
    · simp [strOf_root s h256, firstOf, h256]
    · have hp := hd k.toNat (by omega) hk
      have hi := ih _ hp (by omega) rfl
      rw [strOf_stored hd (by omega) hk, List.head?_append, hi]
      simp [firstOf, h256, hf k.toNat (by omega) hk]

end Sys2Proof.Machine
end

