-- ==== Sys2Proof/Laws/Ops.lean ====
section
/-! SUPPORT. What each shared operation can do, said once: the legality gate, the fault of a complete code, an edge of
the clock, the core step. -/

namespace Sys2Proof.Machine

open Sys2Proof

/-! ## The legality gate -/

theorem performIfLegal_legal {i : Instr} {s : State} (act : State → State) (h : legal i s.mode = true) :
    performIfLegal i act s = act s := by simp [performIfLegal, h]

theorem performIfLegal_dropped {i : Instr} {s : State} (act : State → State) (h : legal i s.mode = false)
    (hm : s.mode = .fault) : performIfLegal i act s = s := by
  rw [hm] at h; simp [performIfLegal, h, hm]

theorem performIfLegal_sequenceError {i : Instr} {s : State} (act : State → State) (h : legal i s.mode = false)
    (hm : s.mode ≠ .fault) : performIfLegal i act s = raiseFault .sequenceError (encode i) s := by
  simp [performIfLegal, h, hm]

/-- The gate performs the command, drops it in FAULT mode, or raises SEQUENCE_ERROR (R99). -/
theorem performIfLegal_cases (i : Instr) (act : State → State) (s : State) :
    (legal i s.mode = true ∧ performIfLegal i act s = act s) ∨
    (legal i s.mode = false ∧ s.mode = .fault ∧ performIfLegal i act s = s) ∨
    (legal i s.mode = false ∧ s.mode ≠ .fault ∧
      performIfLegal i act s = raiseFault .sequenceError (encode i) s) := by
  cases h : legal i s.mode with
  | true => exact .inl ⟨rfl, performIfLegal_legal act h⟩
  | false =>
    by_cases hm : s.mode = .fault
    · exact .inr (.inl ⟨rfl, hm, performIfLegal_dropped act h hm⟩)
    · exact .inr (.inr ⟨rfl, hm, performIfLegal_sequenceError act h hm⟩)

/-! ## The data commands -/

/-- What `ENC_BYTE` can do in ENCODE mode (R82): begin, extend, fault, or emit and insert. -/
theorem takeInputByte_cases (c : Byte) (s : State) :
    (s.wValid = false ∧ takeInputByte c s = countIn { s with wCode := rootCode c, wValid := true }) ∨
    (s.wValid = true ∧ ∃ k, indexLookup s s.wCode c = some k ∧
      takeInputByte c s = countIn { s with wCode := BitVec.ofNat 16 k }) ∨
    (s.wValid = true ∧ indexLookup s s.wCode c = none ∧ s.dictSize = 65536#17 ∧
      takeInputByte c s = raiseFault .capacityExceeded (encode (.encByte c)) s) ∨
    (s.wValid = true ∧ indexLookup s s.wCode c = none ∧ s.dictSize ≠ 65536#17 ∧
      takeInputByte c s = countIn (encodeMiss c s)) := by
  cases hw : s.wValid with
  | false => exact .inl ⟨rfl, by simp [takeInputByte, hw]⟩
  | true =>
    cases hl : indexLookup s s.wCode c with
    | some k => exact .inr (.inl ⟨rfl, k, rfl, by simp [takeInputByte, hw, hl]⟩)
    | none =>
      by_cases hf : s.dictSize = 65536#17
      · exact .inr (.inr (.inl ⟨rfl, rfl, hf, by simp [takeInputByte, hw, hl, dictFull, hf]⟩))
      · exact .inr (.inr (.inr ⟨rfl, rfl, hf, by simp [takeInputByte, hw, hl, dictFull, hf]⟩))

/-- When a complete code raises a fault, and which (R92, R107, R108). -/
theorem codeFault_some {k : Code} {s : State} {cause : ErrCode} (h : codeFault k s = some cause) :
    (cause = .corruptData ∧ s.wValid = false ∧ 256 ≤ k.toNat) ∨
    (cause = .corruptData ∧ s.wValid = true ∧ s.dictSize.toNat < k.toNat) ∨
    (cause = .capacityExceeded ∧ s.wValid = true ∧ s.dictSize = 65536#17) := by
  unfold codeFault at h
  split at h
  · next hw =>
    split at h
    · next hk => cases h; exact .inr (.inl ⟨rfl, hw, hk⟩)
    · split at h
      · next hf => cases h; exact .inr (.inr ⟨rfl, hw, by simpa [dictFull] using hf⟩)
      · cases h
  · next hw =>
    split at h
    · next hk => cases h; exact .inl ⟨rfl, by simpa using hw, hk⟩
    · cases h

/-- A complete code raises no fault exactly where it is decoded (R92). -/
theorem codeFault_none {k : Code} {s : State} :
    codeFault k s = none ↔
      (s.wValid = false ∧ k.toNat < 256) ∨
      (s.wValid = true ∧ k.toNat ≤ s.dictSize.toNat ∧ s.dictSize ≠ 65536#17) := by
  unfold codeFault dictFull
  cases s.wValid
  · simp
  · simp only [if_true, beq_iff_eq]
    split
    · next h => simp; omega
    · next h => split <;> simp_all

/-- What `DEC_BYTE` can do in DECODE mode (R91). -/
theorem takePackedByte_cases (b : Byte) (s : State) :
    (s.halfValid = false ∧ takePackedByte b s = countIn { s with halfByte := b, halfValid := true }) ∨
    (s.halfValid = true ∧ ∃ cause, codeFault (assembleCode b s.halfByte) s = some cause ∧
      takePackedByte b s = raiseFault cause (encode (.decByte b)) s) ∨
    (s.halfValid = true ∧ codeFault (assembleCode b s.halfByte) s = none ∧
      takePackedByte b s = countIn { decodeCode (assembleCode b s.halfByte) s with halfValid := false }) := by
  cases hv : s.halfValid with
  | false => exact .inl ⟨rfl, by simp [takePackedByte, hv]⟩
  | true =>
    cases hf : codeFault (assembleCode b s.halfByte) s with
    | some cause => exact .inr (.inl ⟨rfl, cause, rfl, by simp [takePackedByte, hv, hf]⟩)
    | none => exact .inr (.inr ⟨rfl, rfl, by simp [takePackedByte, hv, hf]⟩)

/-! ## The core step -/

/-- The effect of a command once the gate has let it through (R99). -/
def effectOf : Instr → State → State
  | .nop => fun s => s
  | .encStart => freshStart .encode
  | .encByte c => takeInputByte c
  | .encEnd => flushAndClose
  | .decStart => freshStart .decode
  | .decByte b => takePackedByte b
  | .decEnd => closeDecode
  | .abort => freshStart .idle

/-- Every meaning is the gate around the command's effect. -/
theorem exec_eq (i : Instr) (s : State) : exec i s = .next (performIfLegal i (effectOf i) s) := by
  cases i <;> rfl

/-- The state a core step ends in, on any word (R99). -/
def coreNext (w : Word) (s : State) : State :=
  match decode w with
  | some i => performIfLegal i (effectOf i) s
  | none => takeIllegal w s

theorem coreStep_eq (w : Word) (s : State) : coreStep w s = .next (coreNext w s) := by
  unfold coreStep coreNext
  cases decode w with
  | some i => exact exec_eq i s
  | none => rfl

/-! ## An edge of the clock -/

/-- What one rising edge can come to (R53, R111, R123, R127). -/
theorem clockEdge_cases (s : State) :
    (s.edges = [] ∧ clockEdge s = .settled s) ∨
    (∃ e rest, s.edges = e :: rest ∧
      ((e.rst = true ∧ clockEdge s = .settled (resetCore e.gap (samplePorts e rest s))) ∨
       (e.rst = false ∧ s.busy = true ∧
          clockEdge s = .settled (waitBusy s.outq.length (popIfReady e (samplePorts e rest s)))) ∨
       (e.rst = false ∧ s.busy = false ∧ offered e s = none ∧
          clockEdge s = .settled (restReady e.gap (popIfReady e (samplePorts e rest s)))) ∨
       (∃ w, e.rst = false ∧ s.busy = false ∧ offered e s = some w ∧
          clockEdge s = .accepted w (acceptWord e.gap s.cmdq.tail (popIfReady e (samplePorts e rest s)))))) := by
  cases he : s.edges with
  | nil => exact .inl ⟨rfl, by simp [clockEdge, he]⟩
  | cons e rest =>
    refine .inr ⟨e, rest, rfl, ?_⟩
    cases hr : e.rst with
    | true => exact .inl ⟨rfl, by simp [clockEdge, he, hr]⟩
    | false =>
      cases hb : s.busy with
      | true => exact .inr (.inl ⟨rfl, rfl, by simp [clockEdge, he, hr, hb]⟩)
      | false =>
        cases ho : offered e s with
        | none => exact .inr (.inr (.inl ⟨rfl, rfl, rfl, by simp [clockEdge, he, hr, hb, ho]⟩))
        | some w => exact .inr (.inr (.inr ⟨w, rfl, rfl, rfl, by simp [clockEdge, he, hr, hb, ho]⟩))

/-- What a step can come to: an edge without a command, or the core step of the word accepted (R53, R99). -/
theorem step_cases {s t : State} (h : step s = .next t) :
    clockEdge s = .settled t ∨ ∃ w u, clockEdge s = .accepted w u ∧ t = coreNext w u := by
  unfold step at h
  split at h
  · next u hu => cases h; exact .inl hu
  · next w u hu => rw [coreStep_eq] at h; cases h; exact .inr ⟨w, u, hu, rfl⟩

/-- Everything a step can do (R53, R99, R111): no edge, a reset, an edge that waits, an edge that rests, or a core step. -/
theorem step_spec {s t : State} (h : step s = .next t) :
    (s.edges = [] ∧ t = s) ∨
    (∃ e rest, s.edges = e :: rest ∧
      ((e.rst = true ∧ t = resetCore e.gap (samplePorts e rest s)) ∨
       (e.rst = false ∧ s.busy = true ∧ t = waitBusy s.outq.length (popIfReady e (samplePorts e rest s))) ∨
       (e.rst = false ∧ s.busy = false ∧ offered e s = none ∧
          t = restReady e.gap (popIfReady e (samplePorts e rest s))) ∨
       (∃ w, e.rst = false ∧ s.busy = false ∧ offered e s = some w ∧
          t = coreNext w (acceptWord e.gap s.cmdq.tail (popIfReady e (samplePorts e rest s)))))) := by
  have hs := step_cases h
  rcases clockEdge_cases s with ⟨he, hc⟩ | ⟨e, rest, he, hc⟩
  · rw [hc] at hs
    rcases hs with hs | ⟨w, u, hs, _⟩ <;> cases hs
    exact .inl ⟨he, rfl⟩
  · refine .inr ⟨e, rest, he, ?_⟩
    rcases hc with ⟨hr, hc⟩ | ⟨hr, hb, hc⟩ | ⟨hr, hb, ho, hc⟩ | ⟨w, hr, hb, ho, hc⟩ <;> rw [hc] at hs <;>
      rcases hs with hs | ⟨w', u, hs, ht⟩ <;> cases hs
    · exact .inl ⟨hr, rfl⟩
    · exact .inr (.inl ⟨hr, hb, rfl⟩)
    · exact .inr (.inr (.inl ⟨hr, hb, ho, rfl⟩))
    · exact .inr (.inr (.inr ⟨_, hr, hb, ho, ht⟩))

end Sys2Proof.Machine
end

