-- ==== Sys2Proof/Laws/Frames.lean ====
section
/-! SUPPORT. What no command touches, and what each command's effect does to the arrays. -/

namespace Sys2Proof.Machine

open Sys2Proof

/-- The host's side, the timing side and the reset count of two states are the same. -/
def SameOutside (s t : State) : Prop :=
  t.cmdq = s.cmdq ∧ t.edges = s.edges ∧ t.busyLeft = s.busyLeft ∧ t.inProgress = s.inProgress ∧
  t.regRdata = s.regRdata ∧ t.outTaken = s.outTaken ∧ t.arrayEpoch = s.arrayEpoch

theorem SameOutside.rfl {s : State} : SameOutside s s := ⟨.refl _, .refl _, .refl _, .refl _, .refl _, .refl _, .refl _⟩

/-- The writes of a complete code, by case (R92). -/
theorem decodeCode_cases (k : Code) (s : State) :
    (s.wValid = false ∧ decodeCode k s = { emit [codeLow k] s with wCode := k, wValid := true }) ∨
    (s.wValid = true ∧ decodeCode k s =
      { dictInsert s.wCode (decodedFirst k s) (emit (decodedEntry k s) s) with wCode := k }) := by
  cases h : s.wValid
  · exact .inl ⟨rfl, by simp [decodeCode, h]⟩
  · exact .inr ⟨rfl, by simp [decodeCode, h]⟩

/-- What `ENC_END` can do in ENCODE mode (R83). -/
theorem flushAndClose_cases (s : State) :
    (s.wValid = true ∧ flushAndClose s =
      { emit (codeBytes s.wCode) s with wValid := false, mode := .idle, done := true }) ∨
    (s.wValid = false ∧ flushAndClose s = { s with wValid := false, mode := .idle, done := true }) := by
  cases h : s.wValid
  · exact .inr ⟨rfl, by simp [flushAndClose, h]⟩
  · exact .inl ⟨rfl, by simp [flushAndClose, h]⟩

/-- What `DEC_END` can do in DECODE mode (R93). -/
theorem closeDecode_cases (s : State) :
    (s.halfValid = true ∧ closeDecode s = raiseFault .malformedInput (encode .decEnd) s) ∨
    (s.halfValid = false ∧ closeDecode s = { s with wValid := false, mode := .idle, done := true }) := by
  cases h : s.halfValid
  · exact .inr ⟨rfl, by simp [closeDecode, h]⟩
  · exact .inl ⟨rfl, by simp [closeDecode, h]⟩

/-- No command touches the host's side, the timing side or the reset count. -/
theorem effectOf_outside (i : Instr) (s : State) : SameOutside s (effectOf i s) := by
  cases i with
  | nop => exact SameOutside.rfl
  | encStart | decStart | abort => simp [effectOf, SameOutside]
  | encByte c =>
    rcases takeInputByte_cases c s with ⟨_, h⟩ | ⟨_, k, _, h⟩ | ⟨_, _, _, h⟩ | ⟨_, _, _, h⟩ <;>
      simp [effectOf, SameOutside, h]
  | encEnd =>
    rcases flushAndClose_cases s with ⟨_, h⟩ | ⟨_, h⟩ <;> simp [effectOf, SameOutside, h]
  | decByte b =>
    rcases takePackedByte_cases b s with ⟨_, h⟩ | ⟨_, c, _, h⟩ | ⟨_, _, h⟩
    · simp [effectOf, SameOutside, h]
    · simp [effectOf, SameOutside, h]
    · rcases decodeCode_cases (assembleCode b s.halfByte) s with ⟨_, h'⟩ | ⟨_, h'⟩ <;>
        simp [effectOf, SameOutside, h, h']
  | decEnd =>
    rcases closeDecode_cases s with ⟨_, h⟩ | ⟨_, h⟩ <;> simp [effectOf, SameOutside, h]

theorem performIfLegal_outside (i : Instr) (s : State) : SameOutside s (performIfLegal i (effectOf i) s) := by
  rcases performIfLegal_cases i (effectOf i) s with ⟨_, h⟩ | ⟨_, _, h⟩ | ⟨_, _, h⟩ <;> rw [h]
  · exact effectOf_outside i s
  · exact SameOutside.rfl
  · simp [SameOutside]

theorem takeIllegal_outside (w : Word) (s : State) : SameOutside s (takeIllegal w s) := by
  unfold takeIllegal; split
  · exact SameOutside.rfl
  · simp [SameOutside]

/-- No accepted word touches the host's side, the timing side or the reset count. -/
theorem coreNext_outside (w : Word) (s : State) : SameOutside s (coreNext w s) := by
  unfold coreNext; split
  · exact performIfLegal_outside _ s
  · exact takeIllegal_outside w s

/-- The arrays after a command: as they were, or with one entry written at code `DICT_SIZE`, which then goes up by 1. -/
theorem effectOf_dict (i : Instr) (s : State) :
    (effectOf i s).dict = s.dict ∨
    (((∃ c, i = .encByte c) ∨ ∃ b, i = .decByte b) ∧ s.dictSize ≠ 65536#17 ∧ s.wValid = true ∧
      (∃ c, (effectOf i s).dict = (dictInsert s.wCode c s).dict) ∧ (effectOf i s).dictSize = s.dictSize + 1#17) := by
  cases i with
  | nop => exact .inl rfl
  | encStart | decStart | abort => exact .inl rfl
  | encByte c =>
    rcases takeInputByte_cases c s with ⟨_, h⟩ | ⟨_, k, _, h⟩ | ⟨_, _, _, h⟩ | ⟨hw, _, hn, h⟩
    · exact .inl (by simp [effectOf, h])
    · exact .inl (by simp [effectOf, h])
    · exact .inl (by simp [effectOf, h])
    · exact .inr ⟨.inl ⟨c, rfl⟩, hn, hw, ⟨c, by simp only [effectOf, h]; rfl⟩, by simp [effectOf, h]⟩
  | encEnd =>
    rcases flushAndClose_cases s with ⟨_, h⟩ | ⟨_, h⟩ <;> exact .inl (by simp [effectOf, h])
  | decByte b =>
    rcases takePackedByte_cases b s with ⟨_, h⟩ | ⟨_, c, _, h⟩ | ⟨_, hn, h⟩
    · exact .inl (by simp [effectOf, h])
    · exact .inl (by simp [effectOf, h])
    · rcases decodeCode_cases (assembleCode b s.halfByte) s with ⟨_, h'⟩ | ⟨hw, h'⟩
      · exact .inl (by simp [effectOf, h, h'])
      · refine .inr ⟨.inr ⟨b, rfl⟩, ?_, hw, ⟨decodedFirst (assembleCode b s.halfByte) s, ?_⟩, by simp [effectOf, h, h']⟩
        · rcases codeFault_none.1 hn with ⟨hf, _⟩ | ⟨_, _, hz⟩
          · simp [hw] at hf
          · exact hz
        · simp only [effectOf, h, h']; rfl
  | decEnd =>
    rcases closeDecode_cases s with ⟨_, h⟩ | ⟨_, h⟩ <;> exact .inl (by simp [effectOf, h])

end Sys2Proof.Machine
end

