-- ==== Sys2Proof/Laws/PerInstr.lean ====
section
/-! SUPPORT. The statements made for every instruction, one lemma per constructor. -/

/-- The word of the instruction matches a row of the opcode table (30_encoding.md R64, R66). -/
def Sys2Proof.Laws.EncodesLegal.Statement (i : Sys2Proof.Instr) : Prop :=
  Sys2Proof.legalWord (Sys2Proof.encode i) = true

namespace Sys2Proof.Laws.EncodesLegal

open Sys2Proof

/-- A word with opcode 0x02 or 0x12 matches its row whatever its operand is. -/
theorem of_data_opcode (w : Word) (h : opcField w = 0x02#8 ∨ opcField w = 0x12#8) : legalWord w = true := by
  have hm : w &&& 0xFF00#16 = opcField w ++ 0#8 := by
    apply BitVec.eq_of_getLsbD_eq
    intro i hi
    simp only [BitVec.getLsbD_and, BitVec.getLsbD_append, opcField, BitVec.getLsbD_extractLsb']
    have hb : ∀ j : Fin 16, (0xFF00#16).getLsbD j.val = decide (8 ≤ j.val) := by decide
    have hb := hb ⟨i, hi⟩
    simp only at hb
    rw [hb]
    by_cases h8 : i < 8
    · simp [h8, show ¬8 ≤ i by omega]
    · simp [h8, show 8 ≤ i by omega, show i - 8 < 8 by omega, show 8 + (i - 8) = i by omega]
  rcases h with h | h
  · simp [legalWord, opcodeRows, hm, h]
  · simp [legalWord, opcodeRows, hm, h]

theorem nop : Statement .nop := by unfold Statement; decide

theorem encStart : Statement .encStart := by unfold Statement; decide

theorem encByte (c : Byte) : Statement (.encByte c) := of_data_opcode _ (.inl (by simp [opcodeOf]))

theorem encEnd : Statement .encEnd := by unfold Statement; decide

theorem decStart : Statement .decStart := by unfold Statement; decide

theorem decByte (b : Byte) : Statement (.decByte b) := of_data_opcode _ (.inr (by simp [opcodeOf]))

theorem decEnd : Statement .decEnd := by unfold Statement; decide

theorem abort : Statement .abort := by unfold Statement; decide

end Sys2Proof.Laws.EncodesLegal
end

