-- ==== Sys2Proof/Tests/Slice0.lean ====
section
/-! SUPPORT. The model's own tests: words from the spec's encodings, one step per command with results from
95_test_vectors.md and the rules' examples, and for each statement with hypotheses a state that meets them. -/

namespace Sys2Proof.Tests

open Sys2Proof Sys2Proof.Machine

/-! ## Small states -/

/-- The state after a command, unchanged where the command stops. -/
def after (i : Instr) (s : State) : State :=
  match exec i s with
  | .next t => t
  | _ => s

/-- The state after a list of words. -/
def afterWords (ws : List Word) (s : State) : State :=
  match runWords ws s with
  | .next t => t
  | _ => s

/-- The state after one edge. -/
def afterStep (s : State) : State :=
  match step s with
  | .next t => t
  | _ => s

def encoding : State := { State.reset with mode := .encode }

def decoding : State := { State.reset with mode := .decode }

def faulty : State := { State.reset with mode := .fault, err := .illegalCommand, faultCmd := 0x0400#16 }

/-- Encoding with `w = [c]` and nothing stored. -/
def encodingAt (c : Byte) : State := { encoding with wValid := true, wCode := rootCode c, inCount := 1#32 }

/-- Decoding after the first code `c`. -/
def decodingAt (c : Byte) : State :=
  { decoding with wValid := true, wCode := rootCode c, inCount := 2#32, outCount := 1#32, outq := [c] }

/-- Decoding after the first code `c` and the low byte of the next. -/
def decodingHalf (c low : Byte) : State :=
  { decodingAt c with halfValid := true, halfByte := low, inCount := 3#32 }

/-- Encoding "ab" up to the insertion of code 256, `w = [b]`. -/
def encodingOne : State :=
  { encodingAt 0x62#8 with
    dict := [(256, { prefixCode := 0x61#16, suffixByte := 0x62#8, firstByte := 0x61#8 })]
    dictSize := 257#17
    inCount := 2#32
    outCount := 2#32
    outq := [0x61#8, 0x00#8] }

/-- The edge that offers the next word and nothing else. -/
def idleEdge : Edge := { offerEdge with cmdValid := false }

def atEdge (e : Edge) (s : State) : State := { s with edges := [e] }

/-- A full dictionary whose every stored entry is `Str(0) ++ [0]`, with `w = [1]`: no reachable state, but a state. -/
def fullTable : Memory :=
  (List.range' 256 65280).map fun k => (k, { prefixCode := 0#16, suffixByte := 0#8, firstByte := 0#8 })

def fullEncoding : State := { encodingAt 0x01#8 with dict := fullTable, dictSize := 65536#17 }

/-! ## Well-formedness -/

theorem test_legalWord_refuses : legalWord 0x0001#16 = false ∧ legalWord 0x0400#16 = false ∧
    legalWord 0x1301#16 = false ∧ legalWord 0xFFFF#16 = false ∧ legalWord 0x02FF#16 = true := by decide

theorem test_byteOperand_range : byteOperandOk 256 = false ∧ byteOperandOk 255 = true := by decide

theorem test_wordOperand_range : wordOperandOk 65536 = false ∧ wordOperandOk 65535 = true := by decide

/-! ## Decoding: the words of R64, written bit by bit -/

theorem test_decode_control : decode 0b0000000000000000#16 = some .nop ∧
    decode 0b0010000000000000#16 = some .abort := by decide

theorem test_decode_encoder : decode 0b0000000100000000#16 = some .encStart ∧
    decode 0b0000001001000001#16 = some (.encByte 0b01000001#8) ∧
    decode 0b0000001100000000#16 = some .encEnd := by decide

theorem test_decode_decoder : decode 0b0001000100000000#16 = some .decStart ∧
    decode 0b0001001010000001#16 = some (.decByte 0b10000001#8) ∧
    decode 0b0001001100000000#16 = some .decEnd := by decide

theorem test_decode_refuses : decode 0b0000000000000001#16 = none ∧ decode 0b0000010000000000#16 = none ∧
    decode 0b0010000100000000#16 = none := by decide

theorem test_decodeTableWord : decodeTableWord 16 0x0241 = some (.encByte 0x41#8) ∧
    decodeTableWord 16 0x0400 = none := by decide

/-! ## One step per command -/

/-- V27: NOP changes nothing. -/
theorem test_nop : after .nop encodingOne = encodingOne := by decide

/-- R81: ENC_START out of FAULT mode. -/
theorem test_encStart : (after .encStart faulty).mode = .encode ∧ (after .encStart faulty).err = .noError ∧
    (after .encStart faulty).faultCmd = 0#16 ∧ (after .encStart encodingOne).dictSize = 256#17 := by decide

/-- R82's example: 'T' then 'O' with nothing stored. -/
theorem test_encByte_miss : (after (.encByte 0x4F#8) (encodingAt 0x54#8)).outq = [0x54#8, 0x00#8] ∧
    (after (.encByte 0x4F#8) (encodingAt 0x54#8)).dictSize = 257#17 ∧
    (after (.encByte 0x4F#8) (encodingAt 0x54#8)).wCode = 0x004F#16 ∧
    (after (.encByte 0x4F#8) (encodingAt 0x54#8)).dict =
      [(256, { prefixCode := 0x54#16, suffixByte := 0x4F#8, firstByte := 0x54#8 })] := by decide

/-- A hit emits nothing, and may answer the newest entry (R82). -/
theorem test_encByte_hit :
    (after (.encByte 0x62#8) { encodingOne with wCode := 0x61#16 }).wCode = 0x0100#16 ∧
    (after (.encByte 0x62#8) { encodingOne with wCode := 0x61#16 }).outq = encodingOne.outq := by decide

/-- R83's example. -/
theorem test_encEnd : (after .encEnd { encodingAt 0#8 with wCode := 0x0107#16 }).outq = [0x07#8, 0x01#8] ∧
    (after .encEnd { encodingAt 0#8 with wCode := 0x0107#16 }).mode = .idle ∧
    (after .encEnd { encodingAt 0#8 with wCode := 0x0107#16 }).done = true := by decide

/-- R90's example. -/
theorem test_decStart : (after .decStart faulty).mode = .decode ∧ (after .decStart faulty).err = .noError ∧
    (after .decStart faulty).faultCmd = 0#16 := by decide

/-- V28's state: code 0x0101 after code 97 is above `DICT_SIZE`. -/
theorem test_decByte_corrupt : (after (.decByte 0x01#8) (decodingHalf 0x61#8 0x01#8)).mode = .fault ∧
    (after (.decByte 0x01#8) (decodingHalf 0x61#8 0x01#8)).err = .corruptData ∧
    (after (.decByte 0x01#8) (decodingHalf 0x61#8 0x01#8)).faultCmd = 0x1201#16 ∧
    (after (.decByte 0x01#8) (decodingHalf 0x61#8 0x01#8)).inCount = 3#32 := by decide

/-- V30: the self-reference code 256 after code 97 emits "aa". -/
theorem test_decByte_selfReference :
    (after (.decByte 0x01#8) (decodingHalf 0x61#8 0x00#8)).outq = [0x61#8, 0x61#8, 0x61#8] ∧
    (after (.decByte 0x01#8) (decodingHalf 0x61#8 0x00#8)).dictSize = 257#17 := by decide

/-- R93's example. -/
theorem test_decEnd : (after .decEnd (after (.decByte 0x61#8) decoding)).err = .malformedInput ∧
    (after .decEnd (after (.decByte 0x61#8) decoding)).faultCmd = 0x1300#16 ∧
    (after .decEnd decoding).done = true := by decide

/-- R101's example. -/
theorem test_abort : after .abort faulty = State.reset := by decide

/-- V28: the STATUS word and the registers of that state. -/
theorem test_registers :
    regWord (after (.decByte 0x01#8) (decodingHalf 0x61#8 0x01#8)).view false 0#3 = 0x0001030B#32 ∧
    regWord (after (.decByte 0x01#8) (decodingHalf 0x61#8 0x01#8)).view false 1#3 = 0x00000100#32 ∧
    regWord (after (.decByte 0x01#8) (decodingHalf 0x61#8 0x01#8)).view false 2#3 = 0x00000061#32 ∧
    regWord (after (.decByte 0x01#8) (decodingHalf 0x61#8 0x01#8)).view false 5#3 = 0x00001201#32 := by decide

/-! ## The step, the functions, the assembler -/

/-- A word placed after reset runs at the next step. -/
theorem test_step_placed : (afterStep (State.reset.withFetchWord 16 0x1100)).mode = .decode ∧
    (afterStep (State.reset.withFetchWord 16 0x1201)).err = .sequenceError := by decide

/-- At one edge the pop comes before the command (R111). -/
theorem test_step_popFirst :
    (afterStep { encodingOne with edges := [{ offerEdge with outReady := true }], cmdq := [0x2000#16] }).outTaken =
      some 0x61#8 := by decide

/-- P1 and P2: "ABABABA". -/
theorem test_reference_functions :
    compressR [0x41#8, 0x42#8, 0x41#8, 0x42#8, 0x41#8, 0x42#8, 0x41#8] = some [0x41#16, 0x42#16, 0x100#16, 0x102#16] ∧
    (decompressBytesR (pack [0x41#16, 0x42#16, 0x100#16, 0x102#16])).toOption =
      some [0x41#8, 0x42#8, 0x41#8, 0x42#8, 0x41#8, 0x42#8, 0x41#8] := by decide

/-- R17, R18: the numbers of `MODE` and `ERR`. -/
theorem test_mode_and_err_numbers :
    [Mode.idle, .encode, .decode, .fault].map modeBits = [0#2, 1#2, 2#2, 3#2] ∧
    [ErrCode.noError, .malformedInput, .corruptData, .capacityExceeded, .illegalCommand, .sequenceError].map errBits =
      [0#3, 1#3, 2#3, 3#3, 4#3, 5#3] := by decide

/-- R73 to R78: the text of a script and its words. -/
theorem test_assemble :
    assemble "enc_str \"a\\x00\" ; two".toList = some [0x0261#16, 0x0200#16] ∧
    assemble "DEC_CODE 0x102\nENC_BYTE 'A'".toList = some [0x1202#16, 0x1201#16, 0x0241#16] ∧
    assemble "DEC_BYTE 256".toList = none ∧ assemble "NOP 1".toList = none ∧
    assemble ".word 0x0400".toList = some [0x0400#16] := by decide

/-! ## States with the invariant -/

/-- The strings of the roots are distinct. -/
theorem strInjective_of_roots {s : State} (hz : s.dictSize = 256#17) : s.StrInjective := by
  intro j k hj hk h
  have h256 : s.dictSize.toNat = 256 := by rw [hz]; rfl
  rw [strOf_root s (by omega), strOf_root s (by omega)] at h
  simp only [List.cons.injEq, and_true, codeLow] at h
  apply BitVec.eq_of_toNat_eq
  have h := congrArg BitVec.toNat h
  simp only [BitVec.extractLsb'_toNat, Nat.shiftRight_zero] at h
  omega

/-- A state with the 256 roots only has the invariant where its registers go together. -/
theorem inv_of_roots {s : State} (hz : s.dictSize = 256#17) (hc : s.ControlOk) (hw : s.wCode.toNat < 256)
    (hn : s.CountsOk) (hf : s.FormOk) : s.Inv := by
  have h256 : s.dictSize.toNat = 256 := by rw [hz]; rfl
  exact ⟨hc, ⟨by omega, fun _ => by omega, fun k hk hks => by omega⟩, fun _ => strInjective_of_roots hz, hn, hf⟩

theorem encoding_inv : encoding.Inv := by
  apply inv_of_roots <;> simp [encoding, State.reset, State.ControlOk, State.CountsOk, State.FormOk, Memory.wf]

theorem decodingHalf_inv (c low : Byte) : (decodingHalf c low).Inv := by
  apply inv_of_roots <;>
    simp [decodingHalf, decodingAt, decoding, State.reset, State.ControlOk, State.CountsOk, State.FormOk, Memory.wf,
      rootCode]
  omega

theorem reset_inv : State.reset.Inv := by
  apply inv_of_roots <;> simp [State.reset, State.ControlOk, State.CountsOk, State.FormOk, Memory.wf]

theorem encodingOne_strings {j : Code} (hj : j.toNat < 257) :
    (j.toNat < 256 ∧ strOf encodingOne j = [codeLow j]) ∨
    (j.toNat = 256 ∧ strOf encodingOne j = [0x61#8, 0x62#8]) := by
  by_cases h : j.toNat < 256
  · exact .inl ⟨h, strOf_root _ h⟩
  · have h256 : j = 256#16 := BitVec.eq_of_toNat_eq (by simp; omega)
    subst h256
    exact .inr ⟨rfl, by decide⟩

theorem encodingOne_inv : encodingOne.Inv := by
  refine ⟨?_, ⟨by decide, by decide, ?_⟩, fun _ j k hj hk h => ?_, ?_, ?_⟩
  · simp [encodingOne, encodingAt, encoding, State.reset, State.ControlOk]
  · intro k hk hks
    have : k = 256 := by
      have : encodingOne.dictSize.toNat = 257 := rfl
      omega
    subst this
    decide
  · rcases encodingOne_strings hj with ⟨hj, ej⟩ | ⟨hj, ej⟩ <;>
      rcases encodingOne_strings hk with ⟨hk, ek⟩ | ⟨hk, ek⟩
    · rw [ej, ek] at h
      simp only [List.cons.injEq, and_true, codeLow] at h
      apply BitVec.eq_of_toNat_eq
      have h := congrArg BitVec.toNat h
      simp only [BitVec.extractLsb'_toNat, Nat.shiftRight_zero] at h
      omega
    · rw [ej, ek] at h; simp at h
    · rw [ej, ek] at h; simp at h
    · exact BitVec.eq_of_toNat_eq (by omega)
  · simp [encodingOne, encodingAt, encoding, State.reset, State.CountsOk]
  · simp [encodingOne, encodingAt, encoding, State.reset, State.FormOk, Memory.wf]

/-! ## A full dictionary -/

theorem lookup_fullRange (e : Entry) (n a k : Nat) (h : a ≤ k) (hk : k < a + n) :
    Memory.lookup ((List.range' a n).map fun j => (j, e)) k = some e := by
  induction n generalizing a with
  | zero => omega
  | succ n ih =>
    simp only [List.range'_succ, List.map_cons, Memory.lookup]
    split
    · rfl
    · exact ih (a + 1) (by omega) (by omega)

theorem fullEncoding_misses : indexLookup fullEncoding fullEncoding.wCode 0x02#8 = none := by
  refine List.find?_eq_none.2 fun k hk => ?_
  have hz : fullEncoding.dictSize.toNat = 65536 := rfl
  simp only [storedCodes, List.mem_range'_1, hz] at hk
  have hl := lookup_fullRange { prefixCode := 0#16, suffixByte := 0#8, firstByte := 0#8 } 65280 256 k (by omega) (by omega)
  have hd : Memory.lookup fullEncoding.dict k = some { prefixCode := 0#16, suffixByte := 0#8, firstByte := 0#8 } := hl
  have hr : dictRead fullEncoding k = { prefixCode := 0#16, suffixByte := 0#8, firstByte := 0#8 } := by
    simp only [dictRead, hd]
  have hw : fullEncoding.wCode = 1#16 := rfl
  simp [entryMatches, hr, hw]

/-! ## An input that exceeds the capacity: bytes 'a' until codes 256 to 65535 stand for 2 to 65281 of them -/

def runsOfA (n : Nat) : StringTable := (List.range n).map fun j => List.replicate (j + 2) 0x61#8

theorem isSome_code_cons (d : StringTable) (a b : Byte) (w : List Byte) :
    (codeOfString d (a :: b :: w)).isSome = true ↔ a :: b :: w ∈ d := by
  simp [codeOfString]

theorem isSome_code_runs (n j : Nat) :
    (codeOfString (runsOfA n) (List.replicate (j + 2) 0x61#8)).isSome = true ↔ j < n := by
  rw [List.replicate_succ, List.replicate_succ, isSome_code_cons, ← List.replicate_succ, ← List.replicate_succ]
  simp only [runsOfA, List.mem_map, List.mem_range]
  constructor
  · rintro ⟨i, hi, h⟩
    have h := congrArg List.length h
    simp only [List.length_replicate] at h
    omega
  · exact fun h => ⟨j, h, rfl⟩

theorem run_append (m : Compressor) (x y : List Byte) : m.run (x ++ y) = (m.run x).bind fun t => t.run y := by
  induction x generalizing m with
  | nil => rfl
  | cons c x ih =>
    simp only [List.cons_append, Compressor.run]
    cases m.next c with
    | none => rfl
    | some t => exact ih t

theorem run_extends (n j l : Nat) (out : List Code) (h : j + l ≤ n) :
    Compressor.run ⟨runsOfA n, List.replicate (j + 1) 0x61#8, out⟩ (List.replicate l 0x61#8) =
      some ⟨runsOfA n, List.replicate (j + l + 1) 0x61#8, out⟩ := by
  induction l generalizing j with
  | zero => rfl
  | succ l ih =>
    have hs : List.replicate (j + 1) (0x61#8) ++ [0x61#8] = List.replicate (j + 2) 0x61#8 := by
      rw [← List.replicate_succ']
    have hi := (isSome_code_runs n j).2 (by omega)
    simp only [List.replicate_succ (n := l), Compressor.run, Compressor.next, hs, hi, if_true]
    rw [ih (j + 1) (by omega)]
    simp only [show j + 1 + l + 1 = j + (l + 1) + 1 by omega]

theorem next_misses (n : Nat) (out : List Code) :
    Compressor.next ⟨runsOfA n, List.replicate (n + 1) 0x61#8, out⟩ 0x61#8 =
      if n = 65280 then none
      else some ⟨runsOfA (n + 1), [0x61#8], Compressor.flush ⟨runsOfA n, List.replicate (n + 1) 0x61#8, out⟩⟩ := by
  have hs : List.replicate (n + 1) (0x61#8) ++ [0x61#8] = List.replicate (n + 2) 0x61#8 := by
    rw [← List.replicate_succ']
  have hi : ¬(codeOfString (runsOfA n) (List.replicate (n + 2) 0x61#8)).isSome = true := by
    rw [isSome_code_runs]; omega
  have hn : nextCode (runsOfA n) = 65536 ↔ n = 65280 := by simp [nextCode, runsOfA]; omega
  simp only [Compressor.next, hs, hi, hn, Bool.false_eq_true, if_false]
  split
  · rfl
  · simp [runsOfA, List.range_succ]

theorem run_reaches (n : Nat) (h : n ≤ 65280) :
    ∃ x out, Compressor.start.run x = some ⟨runsOfA n, [0x61#8], out⟩ := by
  induction n with
  | zero => exact ⟨[0x61#8], [], by decide⟩
  | succ n ih =>
    obtain ⟨x, out, hx⟩ := ih (by omega)
    refine ⟨x ++ (List.replicate n 0x61#8 ++ [0x61#8]),
      Compressor.flush ⟨runsOfA n, List.replicate (n + 1) 0x61#8, out⟩, ?_⟩
    rw [run_append, hx, Option.bind_some, run_append]
    have he := run_extends n 0 n out (by omega)
    simp only [Nat.zero_add, List.replicate_one] at he
    rw [he, Option.bind_some, Compressor.run, next_misses, if_neg (by omega)]
    rfl

theorem capacity_is_exceeded :
    ∃ (x : List Byte) (codes : List Code), compressR x = some codes ∧ compressR (x ++ [0x61#8]) = none := by
  obtain ⟨x, out, hx⟩ := run_reaches 65280 (Nat.le_refl _)
  have he := run_extends 65280 0 65280 out (by omega)
  simp only [Nat.zero_add, List.replicate_one] at he
  have hr : Compressor.start.run (x ++ List.replicate 65280 0x61#8) =
      some ⟨runsOfA 65280, List.replicate 65281 0x61#8, out⟩ := by
    rw [run_append, hx, Option.bind_some, he]
  refine ⟨x ++ List.replicate 65280 0x61#8, _, by rw [compressR, hr]; rfl, ?_⟩
  rw [compressR, run_append, hr, Option.bind_some, Compressor.run, next_misses, if_pos rfl]
  rfl

/-! ## Witnesses: for each statement with hypotheses, states and operands that meet them -/

theorem test_witness_DecodeAndEncodeAgree : decode 0x02FF#16 = some (.encByte 0xFF#8) := by decide

theorem test_witness_AcceptedWordRunsItsCommand :
    (State.reset.withFetchWord 16 0x0100).edges = [offerEdge] ∧ offerEdge.rst = false ∧ offerEdge.cmdValid = true ∧
      (State.reset.withFetchWord 16 0x0100).busy = false ∧
      (State.reset.withFetchWord 16 0x0100).cmdq = [0x0100#16] ∧ decode 0x0100#16 = some .encStart := by decide

theorem test_witness_AcceptedWordRunsItsCommand_illegal :
    (State.reset.withFetchWord 16 0x0400).edges = [offerEdge] ∧ offerEdge.rst = false ∧ offerEdge.cmdValid = true ∧
      (State.reset.withFetchWord 16 0x0400).busy = false ∧
      (State.reset.withFetchWord 16 0x0400).cmdq = [0x0400#16] ∧ decode 0x0400#16 = none := by decide

/-- A busy state with a command offered. -/
def waiting : State := { atEdge offerEdge encodingOne with cmdq := [0x0300#16], busyLeft := 1 }

theorem test_witness_BusyEdgeHoldsTheCommand :
    waiting.edges = [offerEdge] ∧ offerEdge.rst = false ∧ waiting.busy = true := by decide

theorem test_witness_EdgeWithoutCommandKeepsTheRegisters :
    ((atEdge idleEdge encodingOne).edges = [idleEdge] ∧ idleEdge.rst = false ∧ idleEdge.cmdValid = false) ∧
    ((atEdge offerEdge encodingOne).edges = [offerEdge] ∧ (atEdge offerEdge encodingOne).cmdq = []) ∧
    (waiting.edges = [offerEdge] ∧ waiting.busy = true) := by decide

theorem test_witness_NopWritesNothing : (0x01#8 : Byte) ≠ 0x00#8 ∧ (0xFF#8 : Byte) ≠ 0x00#8 := by decide

theorem test_witness_PopDeliversTheHead : encodingOne.outq = 0x61#8 :: [0x00#8] ∧ encoding.outq = [] := by decide

theorem test_witness_PopComesBeforeTheCommand :
    ∃ t, ({ encodingOne with edges := [{ offerEdge with outReady := true }], cmdq := [0x2000#16] } : State).outq =
        0x61#8 :: [0x00#8] ∧
      step { encodingOne with edges := [{ offerEdge with outReady := true }], cmdq := [0x2000#16] } = .next t :=
  ⟨_, rfl, rfl⟩

theorem test_witness_ResetEdgeTakesTheResetValues :
    (atEdge { offerEdge with rst := true } faulty).edges = [{ offerEdge with rst := true }] := by decide

theorem test_witness_LongQueueIsBusy :
    ∃ s : State, Config.outFifoDepth < s.outq.length :=
  ⟨{ State.reset with outq := List.replicate (Config.outFifoDepth + 1) 0#8 }, by simp⟩

theorem test_witness_BusyFallsInFiniteTime :
    waiting.outq.length ≤ Config.outFifoDepth ∧ waiting.busyLeft ≤ waiting.edges.length ∧
      ∀ e ∈ waiting.edges.take waiting.busyLeft, e.rst = false :=
  ⟨Nat.le_add_left 2 _, by decide, by decide⟩

theorem test_witness_ReadsHaveNoSideEffect :
    ∃ t u, step (atEdge offerEdge encodingOne) = .next t ∧
      step { atEdge offerEdge encodingOne with edges := [{ offerEdge with regAddr := 5#3 }] } = .next u :=
  ⟨_, _, rfl, rfl⟩

theorem test_witness_ReadWhileBusyIsBeforeOrAfter :
    encodingOne.busy = false ∧
    ({ waiting with inProgress := some encoding.view } : State).busy = true ∧
    ({ waiting with inProgress := some encoding.view } : State).inProgress = some encoding.view := by decide

theorem test_witness_IllegalWordRaisesIllegalCommand :
    decode 0x2001#16 = none ∧ State.reset.mode ≠ .fault ∧ encoding.mode ≠ .fault ∧ decoding.mode ≠ .fault := by decide

theorem test_witness_SequenceErrorIsTheWrongMode :
    State.reset.mode ≠ .fault ∧ State.reset.mode ≠ .encode ∧ encoding.mode ≠ .decode ∧
      (after .decEnd encoding).err = .sequenceError ∧ (after .encEnd encoding).err = .noError := by decide

theorem test_witness_FaultEntryWritesFourRegisters :
    ∃ t, encodingOne.mode ≠ .fault ∧ coreStep 0x12FF#16 encodingOne = .next t ∧ t.mode = .fault :=
  ⟨_, by decide, rfl, by decide⟩

theorem test_witness_FaultModeActsOnThreeWords :
    faulty.mode = .fault ∧ (afterWords [0x0100#16] faulty).mode = .encode ∧
      (afterWords [0x1100#16] faulty).mode = .decode ∧ (afterWords [0x2000#16] faulty).mode = .idle ∧
      afterWords [0x0101#16, 0x0000#16, 0x0241#16] faulty = faulty := by decide

theorem test_witness_FaultModeIsSticky :
    (∃ t, faulty.mode = .fault ∧ step (faulty.withFetchWord 16 0x0241) = .next t ∧ t.mode = .fault) ∧
    (∃ t, step (faulty.withFetchWord 16 0x2000) = .next t ∧ t.mode = .idle) ∧
    (∃ t, step (atEdge { offerEdge with rst := true } faulty) = .next t ∧ t.mode = .idle) ∧
    (∃ t, step { atEdge idleEdge faulty with cmdq := [0x2000#16] } = .next t ∧ t.mode = .fault) ∧
    (∃ t, step { atEdge offerEdge faulty with cmdq := [0x2000#16], busyLeft := 1 } = .next t ∧ t.mode = .fault) :=
  ⟨⟨_, by decide, rfl, by decide⟩, ⟨_, rfl, by decide⟩, ⟨_, rfl, by decide⟩, ⟨_, rfl, by decide⟩, _, rfl, by decide⟩

theorem test_witness_EncByteTakesOneInputByte :
    (encoding.mode = .encode ∧ encoding.wValid = false) ∧
    (encodingOne.mode = .encode ∧ encodingOne.wValid = true ∧
      indexLookup { encodingOne with wCode := 0x61#16 } 0x61#16 0x62#8 = some 256 ∧
      indexLookup encodingOne encodingOne.wCode 0x62#8 = none ∧ encodingOne.dictSize ≠ 65536#17) ∧
    (State.reset.mode = .idle ∧ decoding.mode = .decode ∧ faulty.mode = .fault) := by decide

theorem test_witness_EncByteTakesOneInputByte_full :
    fullEncoding.mode = .encode ∧ fullEncoding.wValid = true ∧
      indexLookup fullEncoding fullEncoding.wCode 0x02#8 = none ∧ fullEncoding.dictSize = 65536#17 :=
  ⟨rfl, rfl, fullEncoding_misses, rfl⟩

theorem test_witness_EncEndFlushesAndCloses :
    (encodingOne.mode = .encode ∧ encodingOne.wValid = true) ∧ (encoding.mode = .encode ∧ encoding.wValid = false) ∧
    State.reset.mode = .idle ∧ decoding.mode = .decode ∧ faulty.mode = .fault := by decide

theorem test_witness_DecByteHoldsTheLowHalf :
    (decoding.mode = .decode ∧ decoding.halfValid = false) ∧ State.reset.mode = .idle ∧ encoding.mode = .encode ∧
      faulty.mode = .fault := by decide

/-- Decoding with the low byte of the first code held. -/
def decodingFirst (low : Byte) : State := { decoding with halfValid := true, halfByte := low, inCount := 1#32 }

/-- The first code at 255 and 256; a later code at `DICT_SIZE - 1`, `DICT_SIZE` and `DICT_SIZE + 1`; the full dictionary
at the greatest code. -/
theorem test_witness_DecByteDecodesACompleteCode :
    ((decodingFirst 0xFF#8).mode = .decode ∧ (decodingFirst 0xFF#8).halfValid = true ∧
      (decodingFirst 0xFF#8).wValid = false ∧
      ((0x00#8).setWidth 16 <<< 8 ||| (decodingFirst 0xFF#8).halfByte.setWidth 16).toNat = 255 ∧
      ((0x01#8).setWidth 16 <<< 8 ||| (decodingFirst 0x00#8).halfByte.setWidth 16).toNat = 256) ∧
    ((decodingHalf 0x61#8 0xFF#8).mode = .decode ∧ (decodingHalf 0x61#8 0xFF#8).halfValid = true ∧
      (decodingHalf 0x61#8 0xFF#8).wValid = true ∧ (decodingHalf 0x61#8 0xFF#8).dictSize = 256#17 ∧
      ((0x00#8).setWidth 16 <<< 8 ||| (decodingHalf 0x61#8 0xFF#8).halfByte.setWidth 16).toNat = 255 ∧
      ((0x01#8).setWidth 16 <<< 8 ||| (decodingHalf 0x61#8 0x00#8).halfByte.setWidth 16).toNat = 256 ∧
      ((0x01#8).setWidth 16 <<< 8 ||| (decodingHalf 0x61#8 0x01#8).halfByte.setWidth 16).toNat = 257) ∧
    (({ decodingHalf 0x61#8 0xFF#8 with dictSize := 65536#17 } : State).dictSize = 65536#17 ∧
      ((0xFF#8).setWidth 16 <<< 8 ||| (decodingHalf 0x61#8 0xFF#8).halfByte.setWidth 16).toNat ≤
        ({ decodingHalf 0x61#8 0xFF#8 with dictSize := 65536#17 } : State).dictSize.toNat) := by decide

theorem test_witness_DecodedEntryIsItsString :
    ∃ t, (decodingHalf 0x61#8 0x00#8).Inv ∧ (decodingHalf 0x61#8 0x00#8).mode = .decode ∧
      (decodingHalf 0x61#8 0x00#8).halfValid = true ∧ (decodingHalf 0x61#8 0x00#8).wValid = true ∧
      exec (.decByte 0x01#8) (decodingHalf 0x61#8 0x00#8) = .next t ∧ t.mode = .decode :=
  ⟨_, decodingHalf_inv _ _, by decide, by decide, by decide, rfl, by decide⟩

theorem test_witness_DecEndClosesOrFaults :
    ((decodingHalf 0x61#8 0#8).mode = .decode ∧ (decodingHalf 0x61#8 0#8).halfValid = true) ∧
    ((decodingAt 0x61#8).mode = .decode ∧ (decodingAt 0x61#8).halfValid = false) ∧
    State.reset.mode = .idle ∧ encoding.mode = .encode ∧ faulty.mode = .fault := by decide

theorem test_witness_NonDataCommandsKeepTheArrays :
    ∃ t u v w x y, exec .nop encodingOne = .next t ∧ exec .encStart encodingOne = .next u ∧
      exec .encEnd encodingOne = .next v ∧ exec .decStart encodingOne = .next w ∧
      exec .decEnd (decodingAt 0x61#8) = .next x ∧ exec .abort encodingOne = .next y :=
  ⟨_, _, _, _, _, _, rfl, rfl, rfl, rfl, rfl, rfl⟩

theorem test_witness_EndCommandsFrame :
    ∃ t u, exec .encEnd encodingOne = .next t ∧ t.mode ≠ .fault ∧
      exec .decEnd (decodingAt 0x61#8) = .next u ∧ u.mode ≠ .fault :=
  ⟨_, _, rfl, by decide, rfl, by decide⟩

/-- An END that flushes nothing, one that faults, and one dropped in FAULT mode. -/
theorem test_witness_EndCommandsFrame_kept :
    ∃ t u v, exec .encEnd encoding = .next t ∧ encoding.wValid = false ∧ t.mode ≠ .fault ∧
      exec .encEnd (decodingAt 0x61#8) = .next u ∧ (decodingAt 0x61#8).wValid = true ∧ u.mode = .fault ∧
      exec .decEnd faulty = .next v ∧ v.mode = .fault :=
  ⟨_, _, _, rfl, rfl, by decide, rfl, rfl, by decide, rfl, by decide⟩

theorem test_witness_EncByteFrame :
    (∃ t, exec (.encByte 0x63#8) encodingOne = .next t ∧ t.mode ≠ .fault ∧ t.dictSize ≠ encodingOne.dictSize) ∧
    ∃ u, exec (.encByte 0x63#8) encoding = .next u ∧ u.mode ≠ .fault ∧ u.dictSize = encoding.dictSize :=
  ⟨⟨_, rfl, by decide, by decide⟩, _, rfl, by decide, by decide⟩

theorem test_witness_DecByteFrame :
    (∃ t, exec (.decByte 0x00#8) (decodingHalf 0x61#8 0x62#8) = .next t ∧ t.mode ≠ .fault ∧
      (decodingHalf 0x61#8 0x62#8).halfValid = true ∧ t.dictSize ≠ (decodingHalf 0x61#8 0x62#8).dictSize) ∧
    ∃ u, exec (.decByte 0x00#8) decoding = .next u ∧ u.mode ≠ .fault ∧ decoding.halfValid = false ∧
      u.dictSize = decoding.dictSize :=
  ⟨⟨_, rfl, by decide, rfl, by decide⟩, _, rfl, by decide, rfl, by decide⟩

theorem test_witness_FirstIsTheHeadOfTheString :
    encodingOne.Inv ∧ (255#16).toNat < encodingOne.dictSize.toNat ∧ (256#16).toNat < encodingOne.dictSize.toNat :=
  ⟨encodingOne_inv, by decide⟩

theorem test_witness_IndexLookupIsExact :
    encodingOne.Inv ∧ encodingOne.mode = .encode ∧ indexLookup encodingOne 0x61#16 0x62#8 = some 256 ∧
      indexLookup encodingOne 0x61#16 0x61#8 = none ∧ (256 ≤ 256 ∧ 256 < encodingOne.dictSize.toNat) :=
  ⟨encodingOne_inv, by decide⟩

theorem test_witness_StringOfACodeIsItsChain :
    encodingOne.Inv ∧ (255#16).toNat < encodingOne.dictSize.toNat ∧ (256#16).toNat < encodingOne.dictSize.toNat :=
  ⟨encodingOne_inv, by decide⟩

theorem test_witness_StoredStringsAreBounded :
    encodingOne.Inv ∧ 256 ≤ (256#16).toNat ∧ (256#16).toNat < encodingOne.dictSize.toNat :=
  ⟨encodingOne_inv, by decide⟩

theorem test_witness_DictInsertAddsOneString :
    encodingOne.Inv ∧ encodingOne.dictSize.toNat < 65536 ∧ (256#16).toNat < encodingOne.dictSize.toNat ∧
      indexLookup encodingOne 256#16 0x63#8 = none :=
  ⟨encodingOne_inv, by decide⟩

theorem test_witness_DictionaryIsAppendOnly :
    ∃ t, Instr.encByte 0x63#8 ≠ .encStart ∧ encodingOne.dictSize.toNat ≤ 65536 ∧
      exec (.encByte 0x63#8) encodingOne = .next t ∧ 256 < encodingOne.dictSize.toNat :=
  ⟨_, by decide, by decide, rfl, by decide⟩

theorem test_witness_OutputPerCommandIsBounded :
    encodingOne.Inv ∧ (∃ t, exec (.encByte 0x63#8) encodingOne = .next t) ∧ (∃ t, exec .encEnd encodingOne = .next t) ∧
    (∃ t, exec .nop encodingOne = .next t) ∧ (decodingHalf 0x61#8 0x00#8).Inv ∧
    (∃ t, exec (.decByte 0x01#8) (decodingHalf 0x61#8 0x00#8) = .next t) ∧
    ∃ t, exec .decEnd (decodingHalf 0x61#8 0x00#8) = .next t :=
  ⟨encodingOne_inv, ⟨_, rfl⟩, ⟨_, rfl⟩, ⟨_, rfl⟩, decodingHalf_inv _ _, ⟨_, rfl⟩, ⟨_, rfl⟩⟩

/-- Encoding, with a command of the decoder offered. -/
def encodingMisled : State := { encodingAt 0x61#8 with edges := [offerEdge], cmdq := [0x12FF#16] }

theorem test_witness_InvariantIsKeptByEveryStep :
    ∃ t, encodingMisled.Inv ∧ step encodingMisled = .next t ∧ t.mode = .fault ∧ encodingMisled.mode = .encode := by
  refine ⟨_, ?_, rfl, by decide, by decide⟩
  apply inv_of_roots <;>
    simp [encodingMisled, encodingAt, encoding, State.reset, State.ControlOk, State.CountsOk, State.FormOk, Memory.wf,
      rootCode]

theorem faulty_inv : faulty.Inv := by
  apply inv_of_roots <;> simp [faulty, State.reset, State.ControlOk, State.CountsOk, State.FormOk, Memory.wf]

theorem test_witness_InvariantIsKeptByEveryStep_inFault :
    ∃ t, faulty.Inv ∧ step faulty = .next t ∧ t.mode = .fault ∧ faulty.mode = .fault ∧ faulty.StrInjective :=
  ⟨_, faulty_inv, rfl, rfl, rfl, strInjective_of_roots rfl⟩

theorem test_witness_TableFormIsKeptByEveryStep :
    ∃ t, Memory.wf encodingOne.dict = true ∧
      step { encodingOne with edges := [offerEdge], cmdq := [0x0263#16] } = .next t ∧ t.dict.length = 2 :=
  ⟨_, by decide, rfl, by decide⟩

/-- Reset states whose arrays differ at code 256. -/
def leftover : State :=
  { State.reset with dict := [(256, { prefixCode := 0x61#16, suffixByte := 0x62#8, firstByte := 0x61#8 })] }

theorem test_witness_LeftoversAreNotObservable :
    ∃ s' t', State.reset.Inv ∧ leftover.Inv ∧ State.SameButLeftovers State.reset leftover ∧
      exec .encStart State.reset = .next s' ∧ exec .encStart leftover = .next t' := by
  refine ⟨_, _, reset_inv, ?_, ?_, rfl, rfl⟩
  · apply inv_of_roots <;> simp [leftover, State.reset, State.ControlOk, State.CountsOk, State.FormOk, Memory.wf]
  · refine ⟨rfl, rfl, rfl, rfl, rfl, rfl, rfl, rfl, rfl, rfl, rfl, rfl, rfl, fun k hk hks => ?_⟩
    have : State.reset.dictSize.toNat = 256 := rfl
    omega

theorem test_witness_ScheduleIsNotObservable :
    ∃ s' t', State.SameCore encodingOne (popByte encodingOne) ∧ exec (.encByte 0x63#8) encodingOne = .next s' ∧
      exec (.encByte 0x63#8) (popByte encodingOne) = .next t' :=
  ⟨_, _, ⟨rfl, rfl, rfl, rfl, rfl, rfl, rfl, rfl, rfl, rfl, rfl, rfl, rfl, rfl⟩, rfl, rfl⟩

theorem test_witness_EndHasOneOfTwoOutcomes :
    (∃ t, exec .encEnd encoding = .next t ∧ t.busy = false ∧ t.mode = .idle) ∧
    ∃ t, exec .decEnd encoding = .next t ∧ t.busy = false ∧ t.mode = .fault :=
  ⟨⟨_, rfl, by decide, by decide⟩, _, rfl, by decide, by decide⟩

theorem test_witness_EncodeCommandsComputeCompress :
    compressR [0x61#8, 0x61#8, 0x61#8] = some [0x61#16, 0x100#16] := by decide

theorem test_witness_EncodeCommandsComputeCompress_capacity :
    ∃ (x : List Byte) (i : Nat) (c : Byte) (codes : List Code), x[i]? = some c ∧ compressR (x.take i) = some codes ∧
      compressR (x.take (i + 1)) = none := by
  obtain ⟨x, codes, h, hn⟩ := capacity_is_exceeded
  refine ⟨x ++ [0x61#8], x.length, 0x61#8, codes, by simp, by simpa using h, ?_⟩
  rw [List.take_of_length_le (by simp)]
  exact hn

theorem test_witness_ShortInputsEncode : ([0x61#8, 0x62#8] : List Byte).length ≤ 65281 := by decide

theorem test_witness_DecodeCommandsComputeDecompress :
    (decompressBytesR [0x61#8, 0x00#8, 0x00#8, 0x01#8]).toOption = some [0x61#8, 0x61#8, 0x61#8] ∧
    (match decompressBytesR [0x61#8, 0x00#8, 0x62#8] with
      | .error .malformedInput => true
      | _ => false) = true := by decide

theorem test_witness_DecodeFaultsAtTheBadCode :
    ∃ (p : List Byte) (i : Nat) (low high : Byte) (r : List Byte) (cause : ErrCode),
      p[2 * i]? = some low ∧ p[2 * i + 1]? = some high ∧ decompressR ((unpack p).take i) = .ok r ∧
      decompressR ((unpack p).take (i + 1)) = .error cause :=
  ⟨[0x61#8, 0x00#8, 0x01#8, 0x01#8], 1, 0x01#8, 0x01#8, [0x61#8], .corruptData, rfl, rfl, rfl, rfl⟩

theorem test_witness_RoundTripGivesTheInputBack : compressR [0x41#8, 0x41#8] = some [0x41#16, 0x41#16] := by decide

theorem test_witness_DecCodeExpandsLowByteFirst : 65536 ≤ 65536 := by decide

theorem test_witness_AssemblerRefusesBadOperands :
    256 ≤ 256 ∧ Mnemonic.abort ∈ [Mnemonic.nop, .encStart, .encEnd, .decStart, .decEnd, .abort] := by decide

theorem test_witness_DictSeedLeavesTheRoots : (255#16).toNat < 256 := by decide

theorem test_witness_FullDictionaryOfADecode :
    ({ decodingHalf 0x61#8 0xFF#8 with dictSize := 65536#17 } : State).mode = .decode ∧
    (after (.decByte 0x00#8) { decodingHalf 0x61#8 0xFF#8 with dictSize := 65536#17 }).err = .capacityExceeded := by
  decide

end Sys2Proof.Tests
end

section
/-! The words of the assembler's pseudo-commands (30_encoding.md R77). -/

namespace Sys2Proof.Machine

open Sys2Proof

/-- Every code, written out as a number, is in the range of R76. -/
@[simp] theorem wordOperandOk_toNat (k : Code) : wordOperandOk k.toNat = true :=
  decide_eq_true k.isLt

theorem all_wordOperandOk_map_toNat (ks : List Code) : (ks.map BitVec.toNat).all wordOperandOk = true := by
  simp [List.all_map]

/-- One `DEC_BYTE` per packed byte is one `DEC_CODE` per code: R76 and R80 both put the low byte first. -/
theorem map_decByte_pack (ks : List Code) :
    ((pack ks).map fun b => encode (.decByte b)) = ks.flatMap decCodeWords := by
  induction ks with
  | nil => rfl
  | cons k rest ih =>
    have hcode : ((codeBytes k).map fun b => encode (.decByte b)) = decCodeWords k := rfl
    rw [pack, List.map_append, hcode, ih, List.flatMap_cons]

/-- The words of an encode are the encoder's words of R64. -/
theorem encodeWords_eq_encode (x : List Byte) :
    encodeWords x = encode .encStart :: (x.map fun c => encode (.encByte c)) ++ [encode .encEnd] := rfl

/-- The words of a decode are the encoder's words of R64. -/
theorem decodeWords_eq_encode (p : List Byte) :
    decodeWords p = encode .decStart :: (p.map fun b => encode (.decByte b)) ++ [encode .decEnd] := rfl

theorem expandLine_encodeText (x : List Byte) : expandLine (.encodeText x) = some (encodeWords x) := by
  rw [expandLine, encodeWords_eq_encode]

theorem expandLine_decodeCodes (ks : List Code) :
    expandLine (.decodeCodes (ks.map BitVec.toNat)) =
      some (encode .decStart :: ks.flatMap decCodeWords ++ [encode .decEnd]) := by
  rw [expandLine, if_pos (all_wordOperandOk_map_toNat ks), List.flatMap_map]
  simp only [BitVec.ofNat_toNat, BitVec.setWidth_eq]

theorem decodeWords_pack (ks : List Code) :
    decodeWords (pack ks) = encode .decStart :: ks.flatMap decCodeWords ++ [encode .decEnd] := by
  rw [decodeWords_eq_encode, map_decByte_pack]

/-- Settles O59: the text's words are those of an encode byte by byte, and the codes' words are those of a decode of
the packed codes by induction on the codes. -/
theorem encodeAndDecodeLinesExpand : Obligations.EncodeAndDecodeLinesExpand := by
  unfold Obligations.EncodeAndDecodeLinesExpand
  exact ⟨expandLine_encodeText, fun ks => by rw [expandLine_decodeCodes, decodeWords_pack]⟩

end Sys2Proof.Machine
end

section
/-! What a command comes to by mode (42_control.md R99), and what a fresh start leaves (R81, R90, R101). -/

namespace Sys2Proof.Machine

open Sys2Proof Sys2Proof.Claims

/-! ## The outcome of a command by mode -/

theorem exec_of_legal {i : Instr} {s : State} (h : legal i s.mode = true) : exec i s = .next (effectOf i s) := by
  rw [exec_eq, performIfLegal_legal _ h]

theorem exec_of_sequenceError {i : Instr} {s : State} (h : legal i s.mode = false) (hm : s.mode ≠ .fault) :
    exec i s = .next (faulted .sequenceError (encode i) s) := by
  rw [exec_eq, performIfLegal_sequenceError _ h hm]
  rfl

theorem exec_of_dropped {i : Instr} {s : State} (h : legal i s.mode = false) (hm : s.mode = .fault) :
    exec i s = .next s := by
  rw [exec_eq, performIfLegal_dropped _ h hm]

/-! ## A fresh start -/

/-- A START or `ABORT` writes every register and keeps the arrays. -/
theorem startedAfresh_freshStart (m : Mode) (s : State) : StartedAfresh m s (freshStart m s) := by
  have harrays : ∀ k, dictRead (freshStart m s) k = dictRead s k := fun k =>
    congrFun (dictRead_congr (freshStart_dict s m) (freshStart_arrayEpoch s m)) k
  simp [StartedAfresh, harrays]

theorem freshStart_outEmpty (m : Mode) (s : State) : (freshStart m s).outEmpty = true := rfl

end Sys2Proof.Machine
end

section
/-! The encoder's `ENC_START` and `ENC_BYTE` (40_encoder.md R81, R82). -/

namespace Sys2Proof.Machine

open Sys2Proof Sys2Proof.Claims

/-- Settles O26: `ENC_START` is legal in every mode, and its effect is a fresh start. -/
theorem encStartOpensAnEncode : Obligations.EncStartOpensAnEncode := by
  unfold Obligations.EncStartOpensAnEncode
  refine ⟨by decide, fun s => ⟨freshStart .encode s, ?_, ?_, ?_⟩⟩
  · exact exec_of_legal rfl
  · exact startedAfresh_freshStart .encode s
  · exact freshStart_outEmpty .encode s

/-! ## `ENC_BYTE` in ENCODE mode, case by case (R82) -/

section
variable (c : Byte) {s : State}

theorem takeInputByte_begin (hw : s.wValid = false) :
    takeInputByte c s = countIn { s with wCode := rootCode c, wValid := true } := by
  simp [takeInputByte, hw]

theorem takeInputByte_hit (hw : s.wValid = true) {k : Nat} (hk : indexLookup s s.wCode c = some k) :
    takeInputByte c s = countIn { s with wCode := BitVec.ofNat 16 k } := by
  simp [takeInputByte, hw, hk]

theorem takeInputByte_full (hw : s.wValid = true) (hmiss : indexLookup s s.wCode c = none)
    (hfull : s.dictSize = 65536#17) :
    takeInputByte c s = faulted .capacityExceeded (encode (.encByte c)) s := by
  simp [takeInputByte, hw, hmiss, dictFull, hfull, raiseFault, faulted]

theorem takeInputByte_miss (hw : s.wValid = true) (hmiss : indexLookup s s.wCode c = none)
    (hroom : s.dictSize ≠ 65536#17) :
    takeInputByte c s = countIn (encodeMiss c s) := by
  simp [takeInputByte, hw, hmiss, dictFull, hroom]

/-- `EmitCode` leaves the arrays alone, so the entry's first byte is read from the table before the command. -/
theorem encodeMiss_dict (s : State) :
    (encodeMiss c s).dict =
      Memory.set s.dict s.dictSize.toNat
        { prefixCode := s.wCode, suffixByte := c, firstByte := firstOf s s.wCode } := by
  have hfirst : firstOf (emitCode s.wCode s) = firstOf s := firstOf_congr rfl rfl
  rw [← hfirst]
  rfl

end

theorem encode_encByte (c : Byte) : encode (.encByte c) = 0x02#8 ++ c := rfl

theorem legal_encByte_eq_false {c : Byte} {m : Mode} (h : m ≠ .encode) : legal (.encByte c) m = false := by
  simpa [legal] using h

theorem exec_encByte_encode {c : Byte} {s : State} (hm : s.mode = .encode) :
    exec (.encByte c) s = .next (takeInputByte c s) :=
  exec_of_legal (by simp [legal, hm])

/-- Settles O29: in ENCODE mode by the four cases of `takeInputByte`, in the other modes by the gate. -/
theorem encByteTakesOneInputByte : Obligations.EncByteTakesOneInputByte := by
  unfold Obligations.EncByteTakesOneInputByte
  intro c s
  refine ⟨encode_encByte c, fun hm => ?_, fun hm => ?_, fun hm => ?_⟩
  · rw [exec_encByte_encode hm]
    refine ⟨fun hw => ?begin, fun hw k hk => ?hit, fun hw hmiss hfull => ?full, fun hw hmiss hroom => ?miss⟩
    case begin => rw [takeInputByte_begin c hw]; rfl
    case hit => rw [takeInputByte_hit c hw hk]; rfl
    case full => rw [takeInputByte_full c hw hmiss hfull, encode_encByte]
    case miss => rw [takeInputByte_miss c hw hmiss hroom, ← encodeMiss_dict]; rfl
  · have ⟨henc, hfault⟩ : s.mode ≠ .encode ∧ s.mode ≠ .fault := by rcases hm with hm | hm <;> simp [hm]
    exact exec_of_sequenceError (legal_encByte_eq_false henc) hfault
  · exact exec_of_dropped (legal_encByte_eq_false (by simp [hm])) hm

end Sys2Proof.Machine
end

section
/-! The decoder's `DEC_START`, `DEC_BYTE` as a high half, and `DEC_END` (41_decoder.md R90 to R93). -/

namespace Sys2Proof.Machine

open Sys2Proof Sys2Proof.Claims

theorem raiseFault_eq_faulted (cause : ErrCode) (cmd : Word) (s : State) :
    raiseFault cause cmd s = faulted cause cmd s := rfl

/-- Emitting and inserting commute: no byte emitted changes the table that the entry's first byte is read from. -/
theorem dictInsert_emit (p : Code) (c : Byte) (bs : List Byte) (s : State) :
    dictInsert p c (emit bs s) = emit bs (dictInsert p c s) := by
  have hfirst : firstOf (emit bs s) = firstOf s := firstOf_congr rfl rfl
  rw [dictInsert, hfirst]
  rfl

/-! ## `DEC_START` (R90) -/

/-- Settles O27: `DEC_START` is legal in every mode, and its effect is a fresh start. -/
theorem decStartOpensADecode : Obligations.DecStartOpensADecode := by
  unfold Obligations.DecStartOpensADecode
  refine ⟨by decide, fun s => ⟨freshStart .decode s, ?_, ?_, ?_⟩⟩
  · exact exec_of_legal rfl
  · exact startedAfresh_freshStart .decode s
  · exact freshStart_outEmpty .decode s

/-! ## `DEC_END` (R93) -/

theorem closeDecode_of_half {s : State} (hh : s.halfValid = true) :
    closeDecode s = faulted .malformedInput (encode .decEnd) s := by
  rw [closeDecode, if_pos hh, raiseFault_eq_faulted]

theorem closeDecode_of_whole {s : State} (hh : s.halfValid = false) :
    closeDecode s = { s with wValid := false, mode := .idle, done := true } := by
  simp [closeDecode, hh]

theorem encode_decEnd : encode .decEnd = 0x1300#16 := by decide

theorem legal_decEnd_eq_false {m : Mode} (h : m ≠ .decode) : legal .decEnd m = false := by
  simpa [legal] using h

theorem exec_decEnd_decode {s : State} (hm : s.mode = .decode) : exec .decEnd s = .next (closeDecode s) :=
  exec_of_legal (by simp [legal, hm])

/-- Settles O34: in DECODE mode by whether a half code is held, in the other modes by the gate. -/
theorem decEndClosesOrFaults : Obligations.DecEndClosesOrFaults := by
  unfold Obligations.DecEndClosesOrFaults
  refine ⟨encode_decEnd, fun s => ⟨fun hm => ?_, fun hm => ?_, fun hm => ?_⟩⟩
  · rw [exec_decEnd_decode hm]
    refine ⟨fun hh => ?half, fun hh => ?whole⟩
    case half => rw [closeDecode_of_half hh, encode_decEnd]
    case whole => rw [closeDecode_of_whole hh]
  · have ⟨hdec, hfault⟩ : s.mode ≠ .decode ∧ s.mode ≠ .fault := by rcases hm with hm | hm <;> simp [hm]
    rw [exec_of_sequenceError (legal_decEnd_eq_false hdec) hfault, encode_decEnd]
  · exact exec_of_dropped (legal_decEnd_eq_false (by simp [hm])) hm

/-! ## A complete code, case by case (R92) -/

section
variable {k : Code} {s : State}

theorem codeFault_first_stored (hw : s.wValid = false) (hk : 256 ≤ k.toNat) :
    codeFault k s = some .corruptData := by
  simp [codeFault, hw, hk]

theorem codeFault_later_beyond (hw : s.wValid = true) (hk : s.dictSize.toNat < k.toNat) :
    codeFault k s = some .corruptData := by
  simp [codeFault, hw, hk]

theorem codeFault_later_full (hw : s.wValid = true) (hk : k.toNat ≤ s.dictSize.toNat)
    (hfull : s.dictSize = 65536#17) : codeFault k s = some .capacityExceeded := by
  rw [codeFault, if_pos hw, if_neg (Nat.not_lt_of_le hk), dictFull, hfull]
  rfl

theorem decodeCode_first (hw : s.wValid = false) :
    decodeCode k s = { emit [codeLow k] s with wCode := k, wValid := true } := by
  simp [decodeCode, hw]

theorem decodeCode_known (hw : s.wValid = true) (hk : k.toNat < s.dictSize.toNat) :
    decodeCode k s = { emit (strOf s k) (dictInsert s.wCode (firstOf s k) s) with wCode := k } := by
  simp [decodeCode, hw, decodedEntry, decodedFirst, hk, dictInsert_emit]

/-- The code that is just being assigned stands for the previous string and its own first byte. -/
theorem decodeCode_selfReference (hw : s.wValid = true) (hk : k.toNat = s.dictSize.toNat) :
    decodeCode k s =
      { emit (strOf s s.wCode ++ [firstOf s s.wCode]) (dictInsert s.wCode (firstOf s s.wCode) s) with
        wCode := k } := by
  simp [decodeCode, hw, decodedEntry, decodedFirst, hk, dictInsert_emit]

end

/-! ## `DEC_BYTE` as the high half of a code (R91) -/

theorem encode_decByte (b : Byte) : encode (.decByte b) = 0x12#8 ++ b := rfl

theorem exec_decByte_decode {b : Byte} {s : State} (hm : s.mode = .decode) :
    exec (.decByte b) s = .next (takePackedByte b s) :=
  exec_of_legal (by simp [legal, hm])

section
variable {b : Byte} {s : State} (hm : s.mode = .decode) (hh : s.halfValid = true)
include hm hh

theorem exec_decByte_of_codeFault {cause : ErrCode} (hf : codeFault (assembleCode b s.halfByte) s = some cause) :
    exec (.decByte b) s = .next (faulted cause (0x12#8 ++ b) s) := by
  have htake : takePackedByte b s = raiseFault cause (encode (.decByte b)) s := by simp [takePackedByte, hh, hf]
  rw [exec_decByte_decode hm, htake, raiseFault_eq_faulted, encode_decByte]

theorem exec_decByte_of_no_codeFault (hf : codeFault (assembleCode b s.halfByte) s = none) :
    exec (.decByte b) s =
      .next (countIn { decodeCode (assembleCode b s.halfByte) s with halfValid := false }) := by
  have htake : takePackedByte b s = countIn { decodeCode (assembleCode b s.halfByte) s with halfValid := false } := by
    simp [takePackedByte, hh, hf]
  rw [exec_decByte_decode hm, htake]

end

/-- Settles O32: the assembled code faults or is decoded as `codeFault` says, and each of the six cases has its own
lemma about `codeFault` or `decodeCode`. -/
theorem decByteDecodesACompleteCode : Obligations.DecByteDecodesACompleteCode := by
  unfold Obligations.DecByteDecodesACompleteCode
  intro b s k hm hh hassembled
  obtain rfl : k = assembleCode b s.halfByte := hassembled
  refine ⟨fun hw hk => ?firstStored, fun hw hk => ?firstRoot, fun hw hk => ?beyond, fun hw hk hfull => ?full,
    fun hw hk hroom => ?known, fun hw hk hroom => ?selfReference⟩
  case firstStored => exact exec_decByte_of_codeFault hm hh (codeFault_first_stored hw hk)
  case firstRoot =>
    rw [exec_decByte_of_no_codeFault hm hh (codeFault_none.2 (.inl ⟨hw, hk⟩)), decodeCode_first hw]
    rfl
  case beyond => exact exec_decByte_of_codeFault hm hh (codeFault_later_beyond hw hk)
  case full => exact exec_decByte_of_codeFault hm hh (codeFault_later_full hw hk hfull)
  case known =>
    rw [exec_decByte_of_no_codeFault hm hh (codeFault_none.2 (.inr ⟨hw, Nat.le_of_lt hk, hroom⟩)),
      decodeCode_known hw hk]
    rfl
  case selfReference =>
    have hlength : (strOf s s.wCode ++ [firstOf s s.wCode]).length = (strOf s s.wCode).length + 1 :=
      List.length_append
    rw [exec_decByte_of_no_codeFault hm hh (codeFault_none.2 (.inr ⟨hw, Nat.le_of_eq hk, hroom⟩)),
      decodeCode_selfReference hw hk, ← hlength]
    rfl

end Sys2Proof.Machine
end

section
/-! The control commands `NOP` and `ABORT` (42_control.md R100, R101). -/

namespace Sys2Proof

/-- Only the two data opcodes have an operand: under any other a non-zero `OPD` makes the word illegal (R66). -/
theorem decode_of_reserved_operand {op x : Byte} (henc : op ≠ 0x02#8) (hdec : op ≠ 0x12#8) (hx : x ≠ 0x00#8) :
    decode (op ++ x) = none := by
  simp [decode, henc, hdec, hx]

end Sys2Proof

namespace Sys2Proof.Machine

open Sys2Proof Sys2Proof.Claims

/-! ## `NOP` (R100) -/

/-- `NOP` is the identity whether the gate lets it through or, in FAULT mode, drops it. -/
theorem exec_nop (s : State) : exec .nop s = .next s := by
  cases hm : s.mode with
  | idle | encode | decode => exact exec_of_legal (by rw [hm]; rfl)
  | fault => exact exec_of_dropped (by rw [hm]; rfl) hm

/-- Settles O25: `NOP` shares its opcode with the illegal words `0x00xx`, and its effect is the identity. -/
theorem nopWritesNothing : Obligations.NopWritesNothing := by
  unfold Obligations.NopWritesNothing
  refine ⟨by decide, fun x hx => ?_, exec_nop⟩
  exact decode_of_reserved_operand (by decide) (by decide) hx

/-! ## `ABORT` (R101) -/

/-- A fresh start that leaves IDLE has the reset value in every register of R15 (R40). -/
theorem resetValues_of_startedAfresh_idle {s t : State} (h : StartedAfresh .idle s t) : ResetValues t := by
  obtain ⟨hmode, herr, hdone, hfaultCmd, hwValid, hwCode, hhalfValid, hhalfByte, hinCount, houtCount, houtq, hdictSize,
    -⟩ := h
  exact ⟨hmode, herr, hdone, hwValid, hwCode, hdictSize, hhalfValid, hhalfByte, hfaultCmd, hinCount, houtCount, houtq⟩

/-- Settles O28: `ABORT` is legal in every mode, and its effect is a fresh start into IDLE. -/
theorem abortReturnsToIdle : Obligations.AbortReturnsToIdle := by
  unfold Obligations.AbortReturnsToIdle
  have hafresh (s : State) : StartedAfresh .idle s (freshStart .idle s) := startedAfresh_freshStart .idle s
  refine ⟨by decide, fun s => ⟨freshStart .idle s, ?_, hafresh s, ?_⟩⟩
  · exact exec_of_legal rfl
  · exact resetValues_of_startedAfresh_idle (hafresh s)

end Sys2Proof.Machine
end

section
/-! Faults (60_exceptions.md R106 to R115): what decoding a word says of it, the faults a command can raise while it is
performed, the gate's faults, and the FAULT mode filter. -/

namespace Sys2Proof

/-! ## A decoded word -/

/-- `Decode` reads the command off the two fields and drops no bit of either (R66, R68). -/
theorem fields_of_decode {w : Word} {i : Instr} (h : decode w = some i) :
    opcField w = opcodeOf i ∧ opdField w = operandOf i := by
  simp only [decode] at h
  split at h
  · next hopc => cases h; exact ⟨hopc, rfl⟩
  split at h
  · next hopc => cases h; exact ⟨hopc, rfl⟩
  split at h
  · cases h
  next hreserved =>
    have hopd : opdField w = 0x00#8 := Decidable.not_not.1 hreserved
    iterate 6
      split at h
      · next hopc => cases h; exact ⟨hopc, hopd⟩
    cases h

/-- A legal word is the word of the command it decodes to. -/
theorem encode_of_decode {w : Word} {i : Instr} (h : decode w = some i) : encode i = w := by
  obtain ⟨hopc, hopd⟩ := fields_of_decode h
  rw [encode, ← hopc, ← hopd, word_fields]

end Sys2Proof

namespace Sys2Proof.Machine

open Sys2Proof Sys2Proof.Claims

/-! ## The core step by what the word decodes to (R99) -/

theorem coreStep_of_decode {w : Word} {i : Instr} (h : decode w = some i) (s : State) : coreStep w s = exec i s := by
  rw [coreStep, h]

theorem coreStep_of_illegal {w : Word} (h : decode w = none) (s : State) :
    coreStep w s = .next (takeIllegal w s) := by
  rw [coreStep, h]

theorem takeIllegal_of_not_fault {w : Word} {s : State} (hm : s.mode ≠ .fault) :
    takeIllegal w s = faulted .illegalCommand w s :=
  if_neg hm

theorem takeIllegal_of_fault {w : Word} {s : State} (hm : s.mode = .fault) : takeIllegal w s = s :=
  if_pos hm

/-- Settles O20: outside FAULT mode the core step takes an illegal word as R109 says. -/
theorem illegalWordRaisesIllegalCommand : Obligations.IllegalWordRaisesIllegalCommand := by
  unfold Obligations.IllegalWordRaisesIllegalCommand
  intro w s hd hm
  rw [coreStep_of_illegal hd, takeIllegal_of_not_fault hm]

/-! ## The FAULT mode filter (R114) -/

/-- The filter lets no command through but the three that have these words. -/
theorem legal_fault_eq_false {i : Instr} (hencStart : encode i ≠ 0x0100#16) (hdecStart : encode i ≠ 0x1100#16)
    (habort : encode i ≠ 0x2000#16) : legal i .fault = false := by
  cases i with
  | nop | encByte _ | encEnd | decByte _ | decEnd => rfl
  | encStart => exact absurd rfl hencStart
  | decStart => exact absurd rfl hdecStart
  | abort => exact absurd rfl habort

/-- Settles O23: the three words decode to their commands; any other word is illegal, or is that of a command which the
filter drops. -/
theorem faultModeActsOnThreeWords : Obligations.FaultModeActsOnThreeWords := by
  unfold Obligations.FaultModeActsOnThreeWords
  intro w s hm
  split
  · exact coreStep_of_decode (by subst w; decide) s
  split
  · exact coreStep_of_decode (by subst w; decide) s
  split
  · exact coreStep_of_decode (by subst w; decide) s
  next hencStart hdecStart habort =>
    cases hd : decode w with
    | none => rw [coreStep_of_illegal hd, takeIllegal_of_fault hm]
    | some i =>
      obtain rfl : encode i = w := encode_of_decode hd
      rw [coreStep_of_decode hd]
      exact exec_of_dropped (hm ▸ legal_fault_eq_false hencStart hdecStart habort) hm

/-! ## The faults raised while a command is performed (R106 to R108) -/

/-- A cause that a command let through by the gate can raise: MALFORMED_INPUT, CORRUPT_DATA, CAPACITY_EXCEEDED. -/
def DataCause (cause : ErrCode) : Prop :=
  cause = .malformedInput ∨ cause = .corruptData ∨ cause = .capacityExceeded

theorem DataCause.ne_noError {cause : ErrCode} (h : DataCause cause) : cause ≠ .noError := by
  rcases h with rfl | rfl | rfl <;> decide

theorem DataCause.ne_sequenceError {cause : ErrCode} (h : DataCause cause) : cause ≠ .sequenceError := by
  rcases h with rfl | rfl | rfl <;> decide

theorem dataCause_of_codeFault {k : Code} {s : State} {cause : ErrCode} (h : codeFault k s = some cause) :
    DataCause cause := by
  rcases codeFault_some h with ⟨hcause, -⟩ | ⟨hcause, -⟩ | ⟨hcause, -⟩
  · exact .inr (.inl hcause)
  · exact .inr (.inl hcause)
  · exact .inr (.inr hcause)

theorem decodeCode_mode (k : Code) (s : State) : (decodeCode k s).mode = s.mode := by
  rcases decodeCode_cases k s with ⟨-, h⟩ | ⟨-, h⟩ <;> simp [h]

/-- A command that is performed and ends in FAULT mode has made fault entry, and nothing else, with a cause of its own:
each command's faults are raised before any of its writes. -/
theorem effectOf_faulted {i : Instr} {s : State} (hm : s.mode ≠ .fault) (hf : (effectOf i s).mode = .fault) :
    ∃ cause, DataCause cause ∧ effectOf i s = faulted cause (encode i) s := by
  cases i with
  | nop => exact absurd hf hm
  | encStart | decStart | abort => cases hf
  | encByte c =>
    rcases takeInputByte_cases c s with ⟨-, h⟩ | ⟨-, k, -, h⟩ | ⟨-, -, -, h⟩ | ⟨-, -, -, h⟩ <;> rw [effectOf, h] at hf
    · exact absurd hf hm
    · exact absurd hf hm
    · exact ⟨.capacityExceeded, .inr (.inr rfl), h⟩
    · exact absurd hf hm
  | encEnd =>
    rcases flushAndClose_cases s with ⟨-, h⟩ | ⟨-, h⟩ <;> rw [effectOf, h] at hf <;> cases hf
  | decByte b =>
    rcases takePackedByte_cases b s with ⟨-, h⟩ | ⟨-, cause, hcause, h⟩ | ⟨-, -, h⟩ <;> rw [effectOf, h] at hf
    · exact absurd hf hm
    · exact ⟨cause, dataCause_of_codeFault hcause, h⟩
    · exact absurd ((decodeCode_mode _ s).symm.trans hf) hm
  | decEnd =>
    rcases closeDecode_cases s with ⟨-, h⟩ | ⟨-, h⟩ <;> rw [effectOf, h] at hf
    · exact ⟨.malformedInput, .inl rfl, h⟩
    · cases hf

/-! ## SEQUENCE_ERROR (R102, R110) -/

theorem effectOf_ne_sequenceError {i : Instr} {s : State} (hm : s.mode ≠ .fault) (cmd : Word) :
    effectOf i s ≠ faulted .sequenceError cmd s := by
  intro h
  obtain ⟨cause, hcause, h'⟩ := effectOf_faulted hm (congrArg State.mode h)
  exact hcause.ne_sequenceError (congrArg State.err (h'.symm.trans h))

/-- Only the gate raises SEQUENCE_ERROR. -/
theorem exec_eq_sequenceError_iff {i : Instr} {s : State} (hm : s.mode ≠ .fault) :
    exec i s = .next (faulted .sequenceError (encode i) s) ↔ legal i s.mode = false := by
  refine ⟨fun h => ?_, fun hillegal => exec_of_sequenceError hillegal hm⟩
  cases hlegal : legal i s.mode with
  | false => rfl
  | true =>
    rw [exec_of_legal hlegal] at h
    exact absurd (Host.Outcome.next.inj h) (effectOf_ne_sequenceError hm _)

/-- Outside FAULT mode the table of R102 refuses the data and end commands of the other mode. -/
theorem legal_eq_false_iff {i : Instr} {m : Mode} (hm : m ≠ .fault) :
    legal i m = false ↔
      (((∃ c, i = .encByte c) ∨ i = .encEnd) ∧ m ≠ .encode) ∨
      (((∃ b, i = .decByte b) ∨ i = .decEnd) ∧ m ≠ .decode) := by
  cases i with
  | nop => cases m <;> simp [legal] at hm ⊢
  | encStart | decStart | abort => simp [legal]
  | encByte _ | encEnd | decByte _ | decEnd => simp [legal]

/-- Settles O21: SEQUENCE_ERROR is the gate's alone, and the gate refuses by the table of R102. -/
theorem sequenceErrorIsTheWrongMode : Obligations.SequenceErrorIsTheWrongMode := by
  unfold Obligations.SequenceErrorIsTheWrongMode
  intro i s hm
  exact (exec_eq_sequenceError_iff hm).trans (legal_eq_false_iff hm)

/-! ## Fault entry (R112) -/

/-- Outside FAULT mode a word that ends in FAULT mode has made fault entry with a cause, and nothing else. -/
theorem coreNext_faulted {w : Word} {s : State} (hm : s.mode ≠ .fault) (hf : (coreNext w s).mode = .fault) :
    ∃ cause, cause ≠ .noError ∧ coreNext w s = faulted cause w s := by
  cases hd : decode w with
  | none =>
    have hillegal : coreNext w s = takeIllegal w s := by rw [coreNext, hd]
    exact ⟨.illegalCommand, by decide, hillegal.trans (takeIllegal_of_not_fault hm)⟩
  | some i =>
    obtain rfl : encode i = w := encode_of_decode hd
    have hgate : coreNext (encode i) s = performIfLegal i (effectOf i) s := by rw [coreNext, hd]
    rw [hgate] at hf ⊢
    rcases performIfLegal_cases i (effectOf i) s with ⟨-, h⟩ | ⟨-, hfault, -⟩ | ⟨-, -, h⟩
    · rw [h] at hf ⊢
      obtain ⟨cause, hcause, heffect⟩ := effectOf_faulted hm hf
      exact ⟨cause, hcause.ne_noError, heffect⟩
    · exact absurd hfault hm
    · exact ⟨.sequenceError, by decide, h⟩

/-- Settles O22: whichever fault the word raises, the next state is the one before with fault entry's four writes. -/
theorem faultEntryWritesFourRegisters : Obligations.FaultEntryWritesFourRegisters := by
  unfold Obligations.FaultEntryWritesFourRegisters
  intro w s t hm hstep hf
  rw [coreStep_eq] at hstep
  obtain rfl : coreNext w s = t := Host.Outcome.next.inj hstep
  obtain ⟨cause, hcause, hnext⟩ := coreNext_faulted hm hf
  rw [hnext]
  exact ⟨hcause, rfl⟩

end Sys2Proof.Machine
end

section
/-! The decoder and the encoder (30_encoding.md R63 to R71): the two directions of the round trip, the words that are
refused, and the packed codes. -/

namespace Sys2Proof

/-! ## The round trip (R68) -/

/-- The decoder reads the opcode and, where there is one, the operand that the encoder put into the two fields. -/
theorem decode_encode (i : Instr) : decode (encode i) = some i := by
  cases i <;> simp [decode, opcodeOf, operandOf]

/-! ## The words that are refused (R66, R67) -/

/-- The decoder by its fields: no command has an undefined opcode, and six of the eight have a reserved operand. -/
theorem decode_eq_none_iff_fields (w : Word) :
    decode w = none ↔
      (opcField w ∉ [0x00#8, 0x01#8, 0x02#8, 0x03#8, 0x11#8, 0x12#8, 0x13#8, 0x20#8] ∨
        (opcField w ∈ [0x00#8, 0x01#8, 0x03#8, 0x11#8, 0x13#8, 0x20#8] ∧ opdField w ≠ 0x00#8)) := by
  simp only [decode]
  generalize opcField w = op, opdField w = opd
  split
  · next hop => simp [hop]
  split
  · next hop => simp [hop]
  next henc hdec =>
  split
  · next hopd =>
    by_cases hbare : op ∈ [0x00#8, 0x01#8, 0x03#8, 0x11#8, 0x13#8, 0x20#8]
    · exact iff_of_true rfl (.inr ⟨hbare, hopd⟩)
    · exact iff_of_true rfl (.inl (by simpa [henc, hdec] using hbare))
  next hopd =>
  iterate 6
    split
    · next hop => simpa [hop] using hopd
  simp_all

/-- The mask of a data row keeps the opcode and clears the operand. -/
theorem and_opcodeMask (w : Word) : w &&& 0xFF00#16 = opcField w ++ 0x00#8 := by
  have hmask : ∀ j : Fin 16, (0xFF00#16).getLsbD j = decide (8 ≤ j.val) := by decide
  apply BitVec.eq_of_getLsbD_eq
  intro i hi
  rw [BitVec.getLsbD_and, BitVec.getLsbD_append, hmask ⟨i, hi⟩]
  by_cases h8 : i < 8
  · simp [h8]
  · simp [opcField, h8, show 8 + (i - 8) = i by omega, show i - 8 < 8 by omega, show 8 ≤ i by omega]

/-- The encoder's words match the opcode table (R64, R66). -/
theorem legalWord_encode (i : Instr) : legalWord (encode i) = true := by
  cases i with
  | nop => exact Laws.EncodesLegal.nop
  | encStart => exact Laws.EncodesLegal.encStart
  | encByte c => exact Laws.EncodesLegal.encByte c
  | encEnd => exact Laws.EncodesLegal.encEnd
  | decStart => exact Laws.EncodesLegal.decStart
  | decByte b => exact Laws.EncodesLegal.decByte b
  | decEnd => exact Laws.EncodesLegal.decEnd
  | abort => exact Laws.EncodesLegal.abort

/-- A row without an operand matches its own word alone, a data row every word with its opcode. -/
theorem legalWord_iff (w : Word) :
    legalWord w = true ↔
      w ∈ [0x0000#16, 0x0100#16, 0x0300#16, 0x1100#16, 0x1300#16, 0x2000#16] ∨
      opcField w = 0x02#8 ∨ opcField w = 0x12#8 := by
  have hbare : w &&& 0xFFFF#16 = w := BitVec.and_allOnes
  have hdata (op : Byte) : w &&& 0xFF00#16 = op ++ 0x00#8 ↔ opcField w = op := by
    rw [and_opcodeMask]
    exact ⟨fun h => by simpa using congrArg opcField h, fun h => by rw [h]⟩
  have henc : w &&& 0xFF00#16 = 0x0200#16 ↔ opcField w = 0x02#8 := hdata 0x02#8
  have hdec : w &&& 0xFF00#16 = 0x1200#16 ↔ opcField w = 0x12#8 := hdata 0x12#8
  simp only [legalWord, opcodeRows, List.any_cons, List.any_nil, hbare, Bool.or_false, Bool.or_eq_true, beq_iff_eq,
    List.mem_cons, List.not_mem_nil, or_false, henc, hdec]
  simp only [or_assoc, or_left_comm, or_comm]

/-- The decoder and the opcode table's masks accept the same words. -/
theorem decode_eq_none_iff_legalWord (w : Word) : decode w = none ↔ legalWord w = false := by
  cases hd : decode w with
  | some i =>
    rw [← encode_of_decode hd, legalWord_encode]
    simp
  | none =>
    have hillegal : ¬legalWord w = true := by
      rw [legalWord_iff]
      rintro (hbare | hdata)
      · simp only [List.mem_cons, List.not_mem_nil, or_false] at hbare
        rcases hbare with rfl | rfl | rfl | rfl | rfl | rfl <;> exact absurd hd (by decide)
      · rcases hdata with hop | hop <;> simp [decode, hop] at hd
    simpa using hillegal

end Sys2Proof

namespace Sys2Proof.Machine

open Sys2Proof

/-- Settles O1: the decoder reads back the fields the encoder wrote, and drops no bit of either. -/
theorem decodeAndEncodeAgree : Obligations.DecodeAndEncodeAgree := by
  unfold Obligations.DecodeAndEncodeAgree
  exact ⟨decode_encode, fun _ _ h => encode_of_decode h⟩

/-- Settles O2: by the decoder's cases for the fields, and by the two directions between decoder and opcode table. -/
theorem illegalWordsAreTheUndefinedOnes : Obligations.IllegalWordsAreTheUndefinedOnes := by
  unfold Obligations.IllegalWordsAreTheUndefinedOnes
  exact fun w => ⟨decode_eq_none_iff_fields w, decode_eq_none_iff_legalWord w⟩

/-- Settles O3: eighteen closed words, evaluated. -/
theorem sampleWordsDecode : Obligations.SampleWordsDecode := by
  unfold Obligations.SampleWordsDecode
  decide

/-! ## Packed codes (R70, R71, R80) -/

/-- The bits of an assembled code: the low byte's eight, then the high byte's (R71). -/
theorem assembleCode_eq_append (high low : Byte) : assembleCode high low = high ++ low := by
  apply BitVec.eq_of_getLsbD_eq
  intro i hi
  rw [assembleCode, BitVec.getLsbD_or, BitVec.getLsbD_shiftLeft, BitVec.getLsbD_setWidth, BitVec.getLsbD_setWidth,
    BitVec.getLsbD_append]
  by_cases h8 : i < 8
  · simp [h8, hi]
  · simp [h8, hi, show i - 8 < 16 by omega, BitVec.getLsbD_of_ge low i (by omega)]

/-- The two bytes of a code are its two fields, as the two bytes of a word are. -/
theorem assembleCode_codeHigh_codeLow (k : Code) : assembleCode (codeHigh k) (codeLow k) = k := by
  rw [assembleCode_eq_append]
  exact word_fields k

@[simp] theorem unpack_pack (ks : List Code) : unpack (pack ks) = ks := by
  induction ks with
  | nil => rfl
  | cons k rest ih => simp [pack, codeBytes, unpack, assembleCode_codeHigh_codeLow, ih]

@[simp] theorem length_pack (ks : List Code) : (pack ks).length = 2 * ks.length := by
  induction ks with
  | nil => rfl
  | cons k rest ih => simp [pack, codeBytes, ih]; omega

/-- Settles O4: a code is its high byte followed by its low byte, and the list by induction on the codes. -/
theorem packedCodesAssembleBack : Obligations.PackedCodesAssembleBack := by
  unfold Obligations.PackedCodesAssembleBack
  exact ⟨fun k => ⟨rfl, assembleCode_codeHigh_codeLow k⟩, fun ks => ⟨unpack_pack ks, length_pack ks⟩⟩

end Sys2Proof.Machine
end

section
/-! The dictionary (20_memory.md R42 to R50): what a well-formed dictionary's strings are, and what `DictInsert` and
`DictSeed` make of them. -/

namespace Sys2Proof.Machine

open Sys2Proof

/-! ## Codes as numbers -/

/-- A number read back at its own width. -/
theorem ofNat_toNat_self {w : Nat} (x : BitVec w) : BitVec.ofNat w x.toNat = x := by
  rw [BitVec.ofNat_toNat, BitVec.setWidth_eq]

/-- The low byte of a root is the root. -/
theorem toNat_codeLow {k : Code} (h : k.toNat < 256) : (codeLow k).toNat = k.toNat := by
  rw [codeLow, BitVec.extractLsb'_toNat, Nat.shiftRight_zero]
  omega

/-! ## The well-formed dictionary -/

/-- R30 items 5 and 7: the range of `DICT_SIZE`, and every stored entry above the code
it extends, with that code's first byte. -/
def EntriesOk (s : State) : Prop :=
  (256 ≤ s.dictSize.toNat ∧ s.dictSize.toNat ≤ 65536) ∧
  ∀ k, 256 ≤ k → k < s.dictSize.toNat →
    (dictRead s k).prefixCode.toNat < k ∧ (dictRead s k).firstByte = firstOf s (dictRead s k).prefixCode

theorem dictOk_iff (s : State) :
    s.DictOk ↔ EntriesOk s ∧ (s.wValid = true → s.wCode.toNat < s.dictSize.toNat) := by
  unfold State.DictOk EntriesOk
  exact ⟨fun ⟨hrange, hw, hentries⟩ => ⟨⟨hrange, hentries⟩, hw⟩,
    fun ⟨⟨hrange, hentries⟩, hw⟩ => ⟨hrange, hw, hentries⟩⟩

theorem entriesOk_of_inv {s : State} (h : s.Inv) : EntriesOk s := by
  obtain ⟨-, hdict, -⟩ := h
  exact ((dictOk_iff s).1 hdict).1

theorem wCode_lt_of_inv {s : State} (h : s.Inv) (hw : s.wValid = true) : s.wCode.toNat < s.dictSize.toNat := by
  obtain ⟨-, hdict, -⟩ := h
  exact ((dictOk_iff s).1 hdict).2 hw

theorem strInjective_of_inv {s : State} (h : s.Inv) (hm : s.mode = .encode) : s.StrInjective := by
  obtain ⟨-, -, hinj, -⟩ := h
  exact hinj hm

section
variable {s : State} (h : EntriesOk s)
include h

theorem EntriesOk.size_ge : 256 ≤ s.dictSize.toNat := h.1.1

theorem EntriesOk.size_le : s.dictSize.toNat ≤ 65536 := h.1.2

theorem EntriesOk.parent_lt {k : Nat} (hk : 256 ≤ k) (hlt : k < s.dictSize.toNat) :
    (dictRead s k).prefixCode.toNat < k := (h.2 k hk hlt).1

theorem EntriesOk.firstByte {k : Nat} (hk : 256 ≤ k) (hlt : k < s.dictSize.toNat) :
    (dictRead s k).firstByte = firstOf s (dictRead s k).prefixCode := (h.2 k hk hlt).2

theorem EntriesOk.descends : Descends s s.dictSize.toNat := fun _ hk hlt => h.parent_lt hk hlt

theorem EntriesOk.strOf_eq {k : Code} (hk : 256 ≤ k.toNat) (hlt : k.toNat < s.dictSize.toNat) :
    strOf s k = strOf s (dictRead s k.toNat).prefixCode ++ [(dictRead s k.toNat).suffixByte] :=
  strOf_stored h.descends hk hlt

theorem EntriesOk.strOf_head {k : Code} (hlt : k.toNat < s.dictSize.toNat) :
    (strOf s k).head? = some (firstOf s k) :=
  Machine.strOf_head h.descends (fun _ hk hlt => h.firstByte hk hlt) hlt

theorem EntriesOk.strOf_ne_nil {k : Code} (hlt : k.toNat < s.dictSize.toNat) : strOf s k ≠ [] :=
  Machine.strOf_ne_nil h.descends hlt

/-- No stored string is a single byte. -/
theorem EntriesOk.two_le_length {k : Code} (hk : 256 ≤ k.toNat) (hlt : k.toNat < s.dictSize.toNat) :
    2 ≤ (strOf s k).length := ((strOf_length h.descends hlt).2 hk).1

/-- R46, for roots and stored codes alike. -/
theorem EntriesOk.length_le {k : Code} (hlt : k.toNat < s.dictSize.toNat) : (strOf s k).length ≤ 65281 := by
  have hlength := strOf_length h.descends hlt
  have hsize := h.size_le
  rcases Nat.lt_or_ge k.toNat 256 with hroot | hstored
  · have := hlength.1 hroot; omega
  · have := (hlength.2 hstored).2; omega

theorem EntriesOk.length_pos {k : Code} (hlt : k.toNat < s.dictSize.toNat) : 0 < (strOf s k).length :=
  List.length_pos_iff.2 (h.strOf_ne_nil hlt)

theorem EntriesOk.size_lt (hroom : s.dictSize ≠ 65536#17) : s.dictSize.toNat < 65536 := by
  have hsize := h.size_le
  have hne : s.dictSize.toNat ≠ 65536 := fun heq => hroom (BitVec.eq_of_toNat_eq (by simpa using heq))
  omega

end

/-- Settles O39: by the head of the string of a well-formed dictionary's code. -/
theorem firstIsTheHeadOfTheString : Obligations.FirstIsTheHeadOfTheString := by
  unfold Obligations.FirstIsTheHeadOfTheString
  intro s k hinv hk
  refine ⟨fun hroot => ?root, fun hstored => ?stored, (entriesOk_of_inv hinv).strOf_head hk⟩
  case root => exact if_pos hroot
  case stored => exact if_neg (Nat.not_lt_of_le hstored)

/-- Settles O41: a root is one byte, and a stored code extends another code's string, which the walk has the fuel to
find. -/
theorem stringOfACodeIsItsChain : Obligations.StringOfACodeIsItsChain := by
  unfold Obligations.StringOfACodeIsItsChain
  exact fun s k hinv hk => ⟨strOf_root s, fun hstored => (entriesOk_of_inv hinv).strOf_eq hstored hk⟩

/-- Settles O42: the prefixes descend, so the walk from a stored code `k` meets at most `k - 255` stored codes. -/
theorem storedStringsAreBounded : Obligations.StoredStringsAreBounded := by
  unfold Obligations.StoredStringsAreBounded
  intro s k hinv hstored hk
  have hentries := entriesOk_of_inv hinv
  obtain ⟨htwo, hbound⟩ := (strOf_length hentries.descends hk).2 hstored
  exact ⟨htwo, hbound, hentries.length_le hk⟩

/-! ## What depends on the dictionary alone -/

/-- The same arrays and the same `DICT_SIZE`. -/
def SameDictionary (s t : State) : Prop := s.dict = t.dict ∧ s.arrayEpoch = t.arrayEpoch ∧ s.dictSize = t.dictSize

section
variable {s t : State} (h : SameDictionary s t)
include h

theorem SameDictionary.size : s.dictSize = t.dictSize := h.2.2

theorem SameDictionary.dictRead : dictRead s = dictRead t := dictRead_congr h.1 h.2.1

theorem SameDictionary.firstOf : firstOf s = firstOf t := firstOf_congr h.1 h.2.1

theorem SameDictionary.strOf : strOf s = strOf t := strOf_congr h.1 h.2.1

theorem SameDictionary.entriesOk : EntriesOk s ↔ EntriesOk t := by
  unfold EntriesOk
  rw [h.dictRead, h.firstOf, h.size]

theorem SameDictionary.strInjective : s.StrInjective ↔ t.StrInjective := by
  unfold State.StrInjective
  rw [h.strOf, h.size]

end

/-! ## IndexLookup (R44) -/

/-- A stored code's number is that of a 16-bit code, since `DICT_SIZE` is at most 65536. -/
theorem EntriesOk.toNat_ofNat {s : State} (h : EntriesOk s) {k : Nat} (hk : k < s.dictSize.toNat) :
    (BitVec.ofNat 16 k).toNat = k := by
  have hsize := h.size_le
  rw [BitVec.toNat_ofNat]
  omega

/-- A stored code whose entry is `(p, c)` stands for `Str(p) ++ [c]`. -/
theorem EntriesOk.strOf_ofNat {s : State} (h : EntriesOk s) {k : Nat} (hk : 256 ≤ k) (hlt : k < s.dictSize.toNat) :
    strOf s (BitVec.ofNat 16 k) = strOf s (dictRead s k).prefixCode ++ [(dictRead s k).suffixByte] := by
  have hnum := h.toNat_ofNat hlt
  have hstr := h.strOf_eq (k := BitVec.ofNat 16 k) (by omega) (by omega)
  rwa [hnum] at hstr

/-- An answer of the index stands for the string it was asked for. -/
theorem EntriesOk.strOf_of_indexLookup {s : State} (h : EntriesOk s) {p : Code} {c : Byte} {k : Nat}
    (hk : indexLookup s p c = some k) : strOf s (BitVec.ofNat 16 k) = strOf s p ++ [c] := by
  obtain ⟨hge, hlt, hp, hc⟩ := indexLookup_some hk
  rw [h.strOf_ofNat hge hlt, hp, hc]

/-- Where no two codes have one string, a code with the string `Str(p) ++ [c]` is stored as `(p, c)`. -/
theorem EntriesOk.entry_of_strOf {s : State} (h : EntriesOk s) (hinj : s.StrInjective) {p k : Code} {c : Byte}
    (hp : p.toNat < s.dictSize.toNat) (hk : k.toNat < s.dictSize.toNat) (hstr : strOf s k = strOf s p ++ [c]) :
    256 ≤ k.toNat ∧ (dictRead s k.toNat).prefixCode = p ∧ (dictRead s k.toNat).suffixByte = c := by
  have hstored : 256 ≤ k.toNat := by
    refine Nat.le_of_not_lt fun hroot => ?_
    have hlength := (strOf_length h.descends hk).1 (by omega)
    have hpos := h.length_pos hp
    rw [hstr, List.length_append, List.length_singleton] at hlength
    omega
  have hpk := h.parent_lt hstored hk
  rw [h.strOf_eq hstored hk] at hstr
  obtain ⟨hparent, hsuffix⟩ := List.append_inj' hstr rfl
  exact ⟨hstored, hinj _ _ (by omega) hp hparent, by simpa using hsuffix⟩

/-- Settles O40: the search answers a stored code that matches or none matches, and two codes with one entry have
one string. -/
theorem indexLookupIsExact : Obligations.IndexLookupIsExact := by
  unfold Obligations.IndexLookupIsExact
  intro s p c
  refine ⟨fun k hk => ?_, fun hnone k hge hlt => indexLookup_none hnone hge hlt⟩
  obtain ⟨hge, hlt, hp, hc⟩ := indexLookup_some hk
  refine ⟨hge, hlt, hp, hc, fun hinv hm j hjge hjlt hjp hjc => ?_⟩
  have hentries := entriesOk_of_inv hinv
  have hj := hentries.toNat_ofNat hjlt
  have hk := hentries.toNat_ofNat hlt
  have hstr : strOf s (BitVec.ofNat 16 j) = strOf s (BitVec.ofNat 16 k) := by
    rw [hentries.strOf_ofNat hjge hjlt, hentries.strOf_ofNat hge hlt, hjp, hjc, hp, hc]
  have hcode := strInjective_of_inv hinv hm _ _ (by omega) (by omega) hstr
  rw [← hj, ← hk, hcode]

/-! ## DictInsert (R47) -/

section
variable {s : State} {p : Code} {c : Byte}

theorem dictRead_dictInsert_new (s : State) (p : Code) (c : Byte) :
    dictRead (dictInsert p c s) s.dictSize.toNat = { prefixCode := p, suffixByte := c, firstByte := firstOf s p } := by
  rw [dictRead_dictInsert, if_pos rfl]

theorem dictRead_dictInsert_old (s : State) (p : Code) (c : Byte) {k : Nat} (hk : k < s.dictSize.toNat) :
    dictRead (dictInsert p c s) k = dictRead s k := by
  rw [dictRead_dictInsert, if_neg (Nat.ne_of_lt hk)]

theorem firstOf_dictInsert (s : State) (p : Code) (c : Byte) {k : Code} (hk : k.toNat < s.dictSize.toNat) :
    firstOf (dictInsert p c s) k = firstOf s k := by
  simp only [firstOf, dictRead_dictInsert_old s p c hk]

theorem dictInsert_size (hroom : s.dictSize.toNat < 65536) :
    (dictInsert p c s).dictSize.toNat = s.dictSize.toNat + 1 := by
  rw [dictInsert_dictSize, BitVec.toNat_add]
  simp only [BitVec.toNat_ofNat]
  omega

variable (h : EntriesOk s) (hroom : s.dictSize.toNat < 65536) (hp : p.toNat < s.dictSize.toNat)

include h in
/-- Every earlier string stays: the walk from an earlier code meets earlier codes only. -/
theorem strOf_dictInsert_old {k : Code} (hk : k.toNat < s.dictSize.toNat) :
    strOf (dictInsert p c s) k = strOf s k :=
  (strOf_agree h.descends (fun _ _ hlt => (dictRead_dictInsert_old s p c hlt).symm) hk).symm

include hroom in
/-- A code of the new dictionary is an earlier one or the one inserted. -/
theorem lt_or_eq_of_lt_dictInsert {k : Code} (hk : k.toNat < (dictInsert p c s).dictSize.toNat) :
    k.toNat < s.dictSize.toNat ∨ k = BitVec.ofNat 16 s.dictSize.toNat := by
  rw [dictInsert_size hroom] at hk
  rcases Nat.lt_or_ge k.toNat s.dictSize.toNat with hold | hnew
  · exact .inl hold
  · have hnum : k.toNat = s.dictSize.toNat := by omega
    exact .inr (by rw [← hnum, ofNat_toNat_self])

include h hroom hp

theorem EntriesOk.dictInsert : EntriesOk (dictInsert p c s) := by
  have hsize := dictInsert_size (p := p) (c := c) hroom
  have hge := h.size_ge
  refine ⟨by omega, fun k hk hlt => ?_⟩
  rcases Nat.lt_or_ge k s.dictSize.toNat with hold | hnew
  · have hparent := h.parent_lt hk hold
    rw [dictRead_dictInsert_old s p c hold, firstOf_dictInsert s p c (by omega)]
    exact ⟨hparent, h.firstByte hk hold⟩
  · obtain rfl : k = s.dictSize.toNat := by omega
    rw [dictRead_dictInsert_new, firstOf_dictInsert s p c hp]
    exact ⟨hp, rfl⟩

theorem strOf_dictInsert_new :
    strOf (dictInsert p c s) (BitVec.ofNat 16 s.dictSize.toNat) = strOf s p ++ [c] := by
  have hsize := dictInsert_size (p := p) (c := c) hroom
  rw [(h.dictInsert hroom hp).strOf_ofNat h.size_ge (by omega), dictRead_dictInsert_new, strOf_dictInsert_old h hp]

/-- R50: a string that the index did not find is new, so no two codes get one string. -/
theorem strInjective_dictInsert (hinj : s.StrInjective) (hmiss : indexLookup s p c = none) :
    (Machine.dictInsert p c s).StrInjective := by
  have hfresh {k : Code} (hk : k.toNat < s.dictSize.toNat) : strOf s k ≠ strOf s p ++ [c] := fun hstr => by
    obtain ⟨hstored, hentry⟩ := h.entry_of_strOf hinj hp hk hstr
    exact indexLookup_none hmiss hstored hk hentry
  intro j k hj hk hstr
  rcases lt_or_eq_of_lt_dictInsert hroom hj with hj | rfl <;>
    rcases lt_or_eq_of_lt_dictInsert hroom hk with hk | rfl
  · rw [strOf_dictInsert_old h hj, strOf_dictInsert_old h hk] at hstr
    exact hinj j k hj hk hstr
  · rw [strOf_dictInsert_old h hj, strOf_dictInsert_new h hroom hp] at hstr
    exact absurd hstr (hfresh hj)
  · rw [strOf_dictInsert_old h hk, strOf_dictInsert_new h hroom hp] at hstr
    exact absurd hstr.symm (hfresh hk)
  · rfl

omit hp in
/-- The index finds the new entry, behind all the earlier ones. -/
theorem indexLookup_dictInsert (hmiss : indexLookup s p c = none) :
    indexLookup (Machine.dictInsert p c s) p c = some s.dictSize.toNat := by
  have hge := h.size_ge
  have hcodes : storedCodes (Machine.dictInsert p c s) = storedCodes s ++ [s.dictSize.toNat] := by
    have hcount : s.dictSize.toNat + 1 - 256 = s.dictSize.toNat - 256 + 1 := by omega
    have hlast : 256 + (s.dictSize.toNat - 256) = s.dictSize.toNat := by omega
    rw [storedCodes, dictInsert_size hroom, hcount, List.range'_1_concat, hlast, storedCodes]
  have hold : (storedCodes s).find? (entryMatches (Machine.dictInsert p c s) p c) = none := by
    refine List.find?_eq_none.2 fun k hk => ?_
    simp only [storedCodes, List.mem_range'_1] at hk
    have hlt : k < s.dictSize.toNat := by omega
    simpa [entryMatches, dictRead_dictInsert_old s p c hlt] using indexLookup_none hmiss hk.1 hlt
  have hnew : entryMatches (Machine.dictInsert p c s) p c s.dictSize.toNat = true := by
    simp [entryMatches, dictRead_dictInsert_new]
  rw [indexLookup, hcodes, List.find?_append, hold, List.find?_singleton, if_pos hnew]
  rfl

end

/-- Settles O43: the entry written is read back, the walks from earlier codes do not meet it, and the search meets it
last. -/
theorem dictInsertAddsOneString : Obligations.DictInsertAddsOneString := by
  unfold Obligations.DictInsertAddsOneString
  intro s p c hinv hroom hp
  have h := entriesOk_of_inv hinv
  exact ⟨dictInsert_size hroom, dictRead_dictInsert_new s p c, strOf_dictInsert_new h hroom hp,
    fun k hk => strOf_dictInsert_old h hk, indexLookup_dictInsert h hroom⟩

/-! ## The seed (R48) -/

/-- With `DICT_SIZE = 256` there is no stored code. -/
theorem entriesOk_of_seed {s : State} (h : s.dictSize = 256#17) : EntriesOk s := by
  have hsize : s.dictSize.toNat = 256 := by rw [h, BitVec.toNat_ofNat]
  exact ⟨by omega, fun k hk hlt => by omega⟩

/-- The strings of the roots are the single bytes. -/
theorem strInjective_of_seed {s : State} (h : s.dictSize = 256#17) : s.StrInjective := by
  have hsize : s.dictSize.toNat = 256 := by rw [h, BitVec.toNat_ofNat]
  intro j k hj hk hstr
  rw [hsize] at hj hk
  rw [strOf_root s hj, strOf_root s hk] at hstr
  have hlow := congrArg BitVec.toNat (List.singleton_inj.1 hstr)
  rw [toNat_codeLow hj, toNat_codeLow hk] at hlow
  exact BitVec.eq_of_toNat_eq hlow

/-- Settles O44: no code is stored at `DICT_SIZE = 256`, and the arrays are the ones before. -/
theorem dictSeedLeavesTheRoots : Obligations.DictSeedLeavesTheRoots := by
  unfold Obligations.DictSeedLeavesTheRoots
  exact fun s => ⟨rfl, fun _ _ => by simp [indexLookup, storedCodes], fun _ hk => strOf_root _ hk, fun _ => rfl⟩

end Sys2Proof.Machine
end

section
/-! The ports (20_memory.md R53, 60_exceptions.md R111, 70_reset_and_hazards.md R123 to R133): what an edge comes to by
its case, what an edge without a command keeps, and how `BUSY` falls. -/

namespace Sys2Proof.Machine

open Sys2Proof Sys2Proof.Claims

/-! ## The same registers (R59) -/

theorem State.SameCore.refl (s : State) : State.SameCore s s := by simp [State.SameCore]

theorem State.SameCore.symm {s t : State} (h : State.SameCore s t) : State.SameCore t s := by
  simpa only [State.SameCore, eq_comm] using h

theorem State.SameCore.trans {s t u : State} (h : State.SameCore s t) (h' : State.SameCore t u) :
    State.SameCore s u := by
  simp_all [State.SameCore]

theorem sameCore_samplePorts (e : Edge) (rest : List Edge) (s : State) :
    State.SameCore s (samplePorts e rest s) := by
  simp [State.SameCore]

/-- A pop keeps the bytes of the operation, popped and queued together. -/
theorem sameCore_popIfReady (e : Edge) (s : State) : State.SameCore s (popIfReady e s) := by
  simp [State.SameCore]

theorem sameCore_waitBusy (queued : Nat) (s : State) : State.SameCore s (waitBusy queued s) := by
  simp [State.SameCore]

theorem sameCore_restReady (gap : Nat) (s : State) : State.SameCore s (restReady gap s) := by
  simp [State.SameCore]

theorem sameCore_acceptWord (gap : Nat) (rest : List Word) (s : State) :
    State.SameCore s (acceptWord gap rest s) := by
  simp [State.SameCore]

/-- The port sample and the pop of an edge, which come before everything else at it (R111). -/
def sampleAndPop (e : Edge) (rest : List Edge) (s : State) : State := popIfReady e (samplePorts e rest s)

theorem sameCore_sampleAndPop (e : Edge) (rest : List Edge) (s : State) :
    State.SameCore s (sampleAndPop e rest s) :=
  (sameCore_samplePorts e rest s).trans (sameCore_popIfReady e _)

@[simp] theorem sampleAndPop_cmdq (e : Edge) (rest : List Edge) (s : State) :
    (sampleAndPop e rest s).cmdq = s.cmdq := by simp [sampleAndPop]

@[simp] theorem sampleAndPop_edges (e : Edge) (rest : List Edge) (s : State) :
    (sampleAndPop e rest s).edges = rest := by simp [sampleAndPop]

@[simp] theorem sampleAndPop_busyLeft (e : Edge) (rest : List Edge) (s : State) :
    (sampleAndPop e rest s).busyLeft = s.busyLeft := by simp [sampleAndPop]

/-- A pop only shortens the queue. -/
theorem sampleAndPop_outq_length (e : Edge) (rest : List Edge) (s : State) :
    (sampleAndPop e rest s).outq.length ≤ s.outq.length := by
  rw [sampleAndPop, popIfReady]
  split
  · rw [popByte_outq, List.length_tail]
    exact Nat.sub_le _ _
  · exact Nat.le_refl _

/-! ## A step by the case of its edge -/

section
variable {s : State} {e : Edge} {rest : List Edge} (he : s.edges = e :: rest)
include he

theorem step_of_reset (hr : e.rst = true) : step s = .next (resetCore e.gap (samplePorts e rest s)) := by
  simp [step, clockEdge, he, hr]

section
variable (hr : e.rst = false)
include hr

theorem step_of_busy (hb : s.busy = true) :
    step s = .next (waitBusy s.outq.length (sampleAndPop e rest s)) := by
  simp [step, clockEdge, he, hr, hb, sampleAndPop]

theorem step_of_rest (hb : s.busy = false) (ho : offered e s = none) :
    step s = .next (restReady e.gap (sampleAndPop e rest s)) := by
  simp [step, clockEdge, he, hr, hb, ho, sampleAndPop]

theorem step_of_offered (hb : s.busy = false) {w : Word} (ho : offered e s = some w) :
    step s = coreStep w (acceptWord e.gap s.cmdq.tail (sampleAndPop e rest s)) := by
  simp [step, clockEdge, he, hr, hb, ho, sampleAndPop]

end

end

theorem offered_some_iff {e : Edge} {s : State} {w : Word} :
    offered e s = some w ↔ e.cmdValid = true ∧ ∃ ws, s.cmdq = w :: ws := by
  rw [offered]
  split
  · next hv => simp [hv, List.head?_eq_some_iff]
  · next hv => simp [hv]

theorem offered_eq_none {e : Edge} {s : State} (h : e.cmdValid = false ∨ s.cmdq = []) : offered e s = none := by
  rcases h with h | h <;> simp [offered, h]

/-- Settles O5: the head of the queue is the word offered, and the core step goes by what it decodes to. -/
theorem acceptedWordRunsItsCommand : Obligations.AcceptedWordRunsItsCommand := by
  unfold Obligations.AcceptedWordRunsItsCommand
  intro s e rest w ws he hr hv hq hb
  have hstep := step_of_offered he hr hb (offered_some_iff.2 ⟨hv, ws, hq⟩)
  rw [hq, List.tail_cons] at hstep
  refine ⟨fun i hd => ?_, fun hd => ?_⟩
  · rw [hstep, coreStep_of_decode hd]
    rfl
  · rw [hstep, coreStep_of_illegal hd]
    rfl

theorem two_le_outFifoDepth : 2 ≤ Config.outFifoDepth := Nat.le_add_left 2 _

theorem busy_eq_false_iff (s : State) :
    s.busy = false ↔ s.outq.length ≤ Config.outFifoDepth ∧ s.busyLeft = 0 := by
  simp [State.busy]

/-- Settles O14: the depth is 2 more than its free part, and the length of the queue alone makes `BUSY = 1`. -/
theorem longQueueIsBusy : Obligations.LongQueueIsBusy := by
  unfold Obligations.LongQueueIsBusy
  exact ⟨two_le_outFifoDepth, fun s hlong => by simp [State.cmdReady, State.busy, hlong]⟩

/-! ## A placed word (log 15) -/

/-- At most two bytes stay queued, which every allowed depth has room for. -/
theorem placeCommand_busy (w : Word) (s : State) : (placeCommand w s).busy = false := by
  have hdepth := two_le_outFifoDepth
  refine (busy_eq_false_iff _).2 ⟨?_, rfl⟩
  simp only [placeCommand, List.length_drop]
  omega

/-- The bytes that leave the queue are kept in the ledger. -/
theorem sameCore_placeCommand (w : Word) (s : State) : State.SameCore s (placeCommand w s) := by
  simp [State.SameCore, placeCommand]

theorem withFetchWord_eq_placeCommand (s : State) (w : Nat) :
    s.withFetchWord 16 w = placeCommand (BitVec.ofNat 16 w) s := by
  have hword : BitVec.ofNat 16 (w % 2 ^ 16) = BitVec.ofNat 16 w := BitVec.eq_of_toNat_eq (by simp)
  rw [State.withFetchWord, hword]

/-- Settles O6: the edge placed offers the word, `BUSY` is 0, and what comes before the core step keeps the
registers. -/
theorem placedWordRunsNext : Obligations.PlacedWordRunsNext := by
  unfold Obligations.PlacedWordRunsNext
  intro s w
  rw [withFetchWord_eq_placeCommand]
  generalize BitVec.ofNat 16 w = word
  refine ⟨acceptWord offerEdge.gap s.cmdq (sampleAndPop offerEdge s.edges (placeCommand word s)), ?_, ?_⟩
  · have hplaced := (sameCore_placeCommand word s).trans (sameCore_sampleAndPop offerEdge s.edges _)
    exact (hplaced.trans (sameCore_acceptWord offerEdge.gap s.cmdq _)).symm
  · exact step_of_offered rfl rfl (placeCommand_busy word s) rfl

/-! ## Every edge has an outcome (R99) -/

/-- Settles O7: the core step answers a next state on every word, and an edge is settled or is followed by one. -/
theorem everyWordAndEdgeHasAnOutcome : Obligations.EveryWordAndEdgeHasAnOutcome := by
  unfold Obligations.EveryWordAndEdgeHasAnOutcome
  refine ⟨fun w s => ⟨coreNext w s, coreStep_eq w s⟩, fun s => ?_⟩
  cases hc : clockEdge s with
  | settled t => exact ⟨t, by rw [step, hc]⟩
  | accepted w u => exact ⟨coreNext w u, by rw [step, hc]; exact coreStep_eq w u⟩

/-! ## An edge without a command -/

/-- Settles O8: with `BUSY = 1` the edge samples, pops and waits, and none of the three writes a register. -/
theorem busyEdgeHoldsTheCommand : Obligations.BusyEdgeHoldsTheCommand := by
  unfold Obligations.BusyEdgeHoldsTheCommand
  intro s e rest he hr hb
  refine ⟨_, step_of_busy he hr hb, by simp, by simp, ?_⟩
  exact (sameCore_sampleAndPop e rest s).trans (sameCore_waitBusy _ _)

/-- Settles O9: with `BUSY = 1` by `busyEdgeHoldsTheCommand`, and with `BUSY = 0` and nothing offered the edge rests. -/
theorem edgeWithoutCommandKeepsTheRegisters : Obligations.EdgeWithoutCommandKeepsTheRegisters := by
  unfold Obligations.EdgeWithoutCommandKeepsTheRegisters
  intro s e rest he hr hnone
  cases hb : s.busy with
  | true => exact busyEdgeHoldsTheCommand s e rest he hr hb
  | false =>
    have ho : offered e s = none := offered_eq_none (by simpa [hb] using hnone)
    refine ⟨_, step_of_rest he hr hb ho, by simp, by simp, ?_⟩
    exact (sameCore_sampleAndPop e rest s).trans (sameCore_restReady _ _)

/-! ## The pop -/

/-- Settles O10: by the two cases of the queue. -/
theorem popDeliversTheHead : Obligations.PopDeliversTheHead := by
  unfold Obligations.PopDeliversTheHead
  exact fun s => ⟨fun b rest h => by simp [popByte, h], fun h => by simp [popByte, h]⟩

theorem sampleAndPop_outTaken {e : Edge} {s : State} {b : Byte} {q : List Byte} (rest : List Edge)
    (hready : e.outReady = true) (hq : s.outq = b :: q) : (sampleAndPop e rest s).outTaken = some b := by
  simp [sampleAndPop, popIfReady, hready, popByte, hq]

/-- Settles O11: every edge but a reset edge begins with the pop, and nothing after it writes the latch. -/
theorem popComesBeforeTheCommand : Obligations.PopComesBeforeTheCommand := by
  unfold Obligations.PopComesBeforeTheCommand
  intro s t e rest b q he hr hready hq hstep
  have htaken := sampleAndPop_outTaken rest hready hq
  cases hb : s.busy with
  | true =>
    rw [step_of_busy he hr hb] at hstep
    cases hstep
    rw [waitBusy_outTaken, htaken]
  | false =>
    cases ho : offered e s with
    | none =>
      rw [step_of_rest he hr hb ho] at hstep
      cases hstep
      rw [restReady_outTaken, htaken]
    | some w =>
      rw [step_of_offered he hr hb ho, coreStep_eq] at hstep
      cases hstep
      obtain ⟨-, -, -, -, -, hlatch, -⟩ := coreNext_outside w (acceptWord e.gap s.cmdq.tail (sampleAndPop e rest s))
      rw [hlatch, acceptWord_outTaken, htaken]

/-! ## Reset (R40, R123) -/

theorem resetValues_resetCore (gap : Nat) (s : State) : ResetValues (resetCore gap s) := by simp [ResetValues]

/-- Settles O12: a reset edge samples the ports and takes the reset values, without a pop. -/
theorem resetEdgeTakesTheResetValues : Obligations.ResetEdgeTakesTheResetValues := by
  unfold Obligations.ResetEdgeTakesTheResetValues
  exact fun s e rest he hr => ⟨_, step_of_reset he hr, resetValues_resetCore _ _, by simp, by simp, by simp⟩

/-- Settles O13: the reset values are those of the record, and the eight register words are closed terms. -/
theorem resetStateReadsAsTheRulesSay : Obligations.ResetStateReadsAsTheRulesSay := by
  unfold Obligations.ResetStateReadsAsTheRulesSay
  exact ⟨by simp [ResetValues, State.reset], by decide⟩

/-! ## Liveness of `BUSY` (R131) -/

/-- With room in the queue, an edge that waits uses up one edge of the oracle's hold. -/
theorem waitBusy_busyLeft_of_room {queued : Nat} (hroom : queued ≤ Config.outFifoDepth) (s : State) :
    (waitBusy queued s).busyLeft = s.busyLeft - 1 := by
  rw [waitBusy, if_neg (Nat.not_lt_of_le hroom)]

theorem run_succ_of_step (M : Host.Core) (n : Nat) {s t : M.State} (h : M.step s = .next t) :
    M.run (n + 1) s = M.run n t := by
  rw [Host.Core.run, h]

/-- The statement for every number of edges that are left, by induction on it: each edge keeps the room, uses up one
edge of the hold and one of the schedule, and takes no command. -/
theorem run_until_not_busy (n : Nat) {s : State} (hroom : s.outq.length ≤ Config.outFifoDepth) (hn : s.busyLeft = n)
    (hedges : n ≤ s.edges.length) (hrst : ∀ e ∈ s.edges.take n, e.rst = false) :
    ∃ t, Host.Core.run core n s = .next t ∧ t.busy = false ∧ t.cmdq = s.cmdq := by
  induction n generalizing s with
  | zero => exact ⟨s, rfl, (busy_eq_false_iff s).2 ⟨hroom, hn⟩, rfl⟩
  | succ n ih =>
    obtain ⟨e, rest, he⟩ := List.exists_cons_of_length_pos (Nat.lt_of_lt_of_le n.succ_pos hedges)
    rw [he] at hedges hrst
    rw [List.length_cons] at hedges
    rw [List.take_succ_cons, List.forall_mem_cons] at hrst
    obtain ⟨hr, hrst⟩ := hrst
    have hb : s.busy = true := by simp [State.busy, hn]
    have hstep := step_of_busy he hr hb
    obtain ⟨t, hrun, hbusy, hq⟩ := ih (s := waitBusy s.outq.length (sampleAndPop e rest s))
      (by rw [waitBusy_outq]; exact Nat.le_trans (sampleAndPop_outq_length e rest s) hroom)
      (by rw [waitBusy_busyLeft_of_room hroom, sampleAndPop_busyLeft, hn, Nat.add_sub_cancel])
      (by simpa using hedges) (by simpa using hrst)
    refine ⟨t, ?_, hbusy, by rw [hq, waitBusy_cmdq, sampleAndPop_cmdq]⟩
    exact (run_succ_of_step core n hstep).trans hrun

/-- Settles O15, by induction on the edges the oracle drew. -/
theorem busyFallsInFiniteTime : Obligations.BusyFallsInFiniteTime := by
  unfold Obligations.BusyFallsInFiniteTime
  exact fun s hroom hedges hrst => run_until_not_busy s.busyLeft hroom rfl hedges hrst

end Sys2Proof.Machine
end

section
/-! What the data commands make of the dictionary (40_encoder.md R82, 41_decoder.md R92). -/

namespace Sys2Proof.Machine

open Sys2Proof

@[simp] theorem toNat_rootCode (c : Byte) : (rootCode c).toNat = c.toNat := by
  rw [rootCode, BitVec.toNat_setWidth]
  omega

theorem rootCode_lt (c : Byte) : (rootCode c).toNat < 256 := by
  rw [toNat_rootCode]
  exact c.isLt

@[simp] theorem codeLow_rootCode (c : Byte) : codeLow (rootCode c) = c :=
  BitVec.eq_of_toNat_eq ((toNat_codeLow (rootCode_lt c)).trans (toNat_rootCode c))

theorem strOf_rootCode (s : State) (c : Byte) : strOf s (rootCode c) = [c] := by
  rw [strOf_root s (rootCode_lt c), codeLow_rootCode]

theorem State.DictOk.entries {s : State} (h : s.DictOk) : EntriesOk s := ((dictOk_iff s).1 h).1

theorem State.DictOk.wCode_lt {s : State} (h : s.DictOk) (hw : s.wValid = true) :
    s.wCode.toNat < s.dictSize.toNat := ((dictOk_iff s).1 h).2 hw

/-- On a dictionary that is well-formed already, only the new `W_CODE` is left to check. -/
theorem SameDictionary.dictOk {s t : State} (h : SameDictionary t s) (hs : EntriesOk s)
    (hw : t.wValid = true → t.wCode.toNat < s.dictSize.toNat) : t.DictOk := by
  rw [dictOk_iff, h.entriesOk, h.size]
  exact ⟨hs, hw⟩

theorem State.StrInjective.of_sameDictionary {s t : State} (hs : s.StrInjective) (h : SameDictionary t s) :
    t.StrInjective := h.strInjective.2 hs

/-! ## `ENC_BYTE` (R82) -/

/-- What a miss does to the dictionary: the insertion alone. -/
theorem sameDictionary_encodeMiss (c : Byte) (s : State) :
    SameDictionary (countIn (encodeMiss c s)) (dictInsert s.wCode c s) := ⟨encodeMiss_dict c s, rfl, rfl⟩

theorem dictOk_takeInputByte (c : Byte) {s : State} (h : s.DictOk) : (takeInputByte c s).DictOk := by
  have hge := h.entries.size_ge
  have hroot := rootCode_lt c
  rcases takeInputByte_cases c s with ⟨-, ht⟩ | ⟨-, k, hk, ht⟩ | ⟨-, -, -, ht⟩ | ⟨hw, -, hroom, ht⟩ <;> rw [ht]
  · exact SameDictionary.dictOk ⟨rfl, rfl, rfl⟩ h.entries fun _ => Nat.lt_of_lt_of_le hroot hge
  · obtain ⟨-, hlt, -⟩ := indexLookup_some hk
    refine SameDictionary.dictOk (s := s) ⟨rfl, rfl, rfl⟩ h.entries fun _ => ?_
    rwa [countIn_wCode, h.entries.toNat_ofNat hlt]
  · exact h
  · have hlt := h.entries.size_lt hroom
    refine (sameDictionary_encodeMiss c s).dictOk (h.entries.dictInsert hlt (h.wCode_lt hw)) fun _ => ?_
    rw [dictInsert_size hlt, countIn_wCode, encodeMiss_wCode]
    omega

theorem strInjective_takeInputByte (c : Byte) {s : State} (h : s.DictOk) (hinj : s.StrInjective) :
    (takeInputByte c s).StrInjective := by
  rcases takeInputByte_cases c s with ⟨-, ht⟩ | ⟨-, k, -, ht⟩ | ⟨-, -, -, ht⟩ | ⟨hw, hmiss, hroom, ht⟩ <;> rw [ht]
  · exact hinj.of_sameDictionary ⟨rfl, rfl, rfl⟩
  · exact hinj.of_sameDictionary ⟨rfl, rfl, rfl⟩
  · exact hinj.of_sameDictionary ⟨rfl, rfl, rfl⟩
  · rw [(sameDictionary_encodeMiss c s).strInjective]
    exact strInjective_dictInsert h.entries (h.entries.size_lt hroom) (h.wCode_lt hw) hinj hmiss

/-! ## A complete code (R92) -/

theorem decodeCode_later {k : Code} {s : State} (hw : s.wValid = true) :
    decodeCode k s = { dictInsert s.wCode (decodedFirst k s) (emit (decodedEntry k s) s) with wCode := k } :=
  if_pos hw

/-- What a later code does to the dictionary: the insertion alone. -/
theorem sameDictionary_decodeCode {s : State} (k : Code) (hw : s.wValid = true) :
    SameDictionary (decodeCode k s) (dictInsert s.wCode (decodedFirst k s) s) := by
  rw [decodeCode_later hw, dictInsert_emit]
  exact ⟨rfl, rfl, rfl⟩

@[simp] theorem decodeCode_wCode (k : Code) (s : State) : (decodeCode k s).wCode = k := by
  rcases decodeCode_cases k s with ⟨-, h⟩ | ⟨-, h⟩ <;> rw [h]

/-- The registers that a complete code does not write (R92). -/
theorem decodeCode_frame (k : Code) (s : State) :
    (decodeCode k s).mode = s.mode ∧ (decodeCode k s).err = s.err ∧ (decodeCode k s).done = s.done ∧
    (decodeCode k s).faultCmd = s.faultCmd ∧ (decodeCode k s).halfByte = s.halfByte ∧
    (decodeCode k s).inCount = s.inCount ∧ (decodeCode k s).popped = s.popped := by
  rcases decodeCode_cases k s with ⟨-, h⟩ | ⟨-, h⟩ <;> simp [h]

@[simp] theorem decodeCode_wValid (k : Code) (s : State) : (decodeCode k s).wValid = true := by
  rcases decodeCode_cases k s with ⟨-, h⟩ | ⟨hw, h⟩ <;> rw [h]
  exact hw

section
variable {k : Code} {s : State} (h : s.DictOk) (hw : s.wValid = true)
include h hw

/-- `entry[0]` is the first byte of `entry` (R92's corner cases, R43). -/
theorem decodedEntry_head : (decodedEntry k s).head? = some (decodedFirst k s) := by
  rw [decodedEntry, decodedFirst]
  split
  · next hk => exact h.entries.strOf_head hk
  · rw [List.head?_append, h.entries.strOf_head (h.wCode_lt hw), Option.some_or]

/-- R46 and R98: `entry` is the string of a code, or that of a code and one byte more while code `DICT_SIZE` is free. -/
theorem decodedEntry_length_le (hroom : s.dictSize ≠ 65536#17) : (decodedEntry k s).length ≤ 65281 := by
  rw [decodedEntry]
  split
  · next hk => exact h.entries.length_le hk
  · have hbound := strOf_length h.entries.descends (h.wCode_lt hw)
    have hlt := h.entries.size_lt hroom
    have hwlt := h.wCode_lt hw
    rw [List.length_append, List.length_singleton]
    rcases Nat.lt_or_ge s.wCode.toNat 256 with hroot | hstored
    · have := hbound.1 hroot; omega
    · have := (hbound.2 hstored).2; omega

theorem strOf_decodeCode_old {j : Code} (hj : j.toNat < s.dictSize.toNat) :
    strOf (decodeCode k s) j = strOf s j := by
  rw [(sameDictionary_decodeCode k hw).strOf]
  exact strOf_dictInsert_old h.entries hj

variable (hroom : s.dictSize ≠ 65536#17)
include hroom

/-- The string of the code just assigned is `w + entry[0]`. -/
theorem strOf_decodeCode_new :
    strOf (decodeCode k s) (BitVec.ofNat 16 s.dictSize.toNat) = strOf s s.wCode ++ [decodedFirst k s] := by
  rw [(sameDictionary_decodeCode k hw).strOf]
  exact strOf_dictInsert_new h.entries (h.entries.size_lt hroom) (h.wCode_lt hw)

theorem decodeCode_size : (decodeCode k s).dictSize.toNat = s.dictSize.toNat + 1 := by
  rw [(sameDictionary_decodeCode k hw).size]
  exact dictInsert_size (h.entries.size_lt hroom)

/-- What a later code emits is its string in the new dictionary, also where the code is the one just assigned (R22). -/
theorem strOf_decodeCode_code (hk : k.toNat ≤ s.dictSize.toNat) : strOf (decodeCode k s) k = decodedEntry k s := by
  rw [decodedEntry]
  split
  · next hold => exact strOf_decodeCode_old h hw hold
  · next hnew =>
    have hcode : k = BitVec.ofNat 16 s.dictSize.toNat := by
      have hnum : k.toNat = s.dictSize.toNat := by omega
      rw [← hnum, ofNat_toNat_self]
    have hself : decodedFirst k s = firstOf s s.wCode := if_neg hnew
    rw [← hself, ← strOf_decodeCode_new h hw hroom, ← hcode]

end

theorem dictOk_decodeCode {k : Code} {s : State} (h : s.DictOk) (hf : codeFault k s = none) :
    (decodeCode k s).DictOk := by
  rcases codeFault_none.1 hf with ⟨hw, hk⟩ | ⟨hw, hk, hroom⟩
  · rw [decodeCode_first hw]
    exact SameDictionary.dictOk ⟨rfl, rfl, rfl⟩ h.entries fun _ => Nat.lt_of_lt_of_le hk h.entries.size_ge
  · have hlt := h.entries.size_lt hroom
    refine (sameDictionary_decodeCode k hw).dictOk (h.entries.dictInsert hlt (h.wCode_lt hw)) fun _ => ?_
    rw [dictInsert_size hlt, decodeCode_wCode]
    omega

/-- A first code assigns no code, a later one assigns one. -/
theorem decodeCode_size_eq {k : Code} {s : State} (h : s.DictOk) (hf : codeFault k s = none) :
    (decodeCode k s).dictSize.toNat = s.dictSize.toNat + s.wValid.toNat := by
  rcases codeFault_none.1 hf with ⟨hw, -⟩ | ⟨hw, -, hroom⟩
  · rw [decodeCode_first hw, hw]
    rfl
  · rw [decodeCode_size h hw hroom, hw, Bool.toNat_true]

/-- Settles O33: a step that stays in DECODE mode has decoded a later code, and what that emits is `entry`. -/
theorem decodedEntryIsItsString : Obligations.DecodedEntryIsItsString := by
  unfold Obligations.DecodedEntryIsItsString
  intro b s t hinv hm hh hw hexec ht
  have h : s.DictOk := (dictOk_iff s).2 ⟨entriesOk_of_inv hinv, wCode_lt_of_inv hinv⟩
  have hgate := exec_decByte_decode (b := b) hm
  generalize hcode : assembleCode b s.halfByte = k at *
  rcases takePackedByte_cases b s with ⟨hfirst, -⟩ | ⟨-, cause, -, hfault⟩ | ⟨-, hf, hdecode⟩
  · simp [hh] at hfirst
  · rw [hgate, hfault] at hexec
    cases hexec
    cases ht
  · rw [hcode] at hf hdecode
    rw [hgate, hdecode] at hexec
    cases hexec
    obtain ⟨hk, hroom⟩ : k.toNat ≤ s.dictSize.toNat ∧ s.dictSize ≠ 65536#17 := by
      simpa [hw] using codeFault_none.1 hf
    obtain ⟨rest, hentry⟩ := List.head?_eq_some_iff.1 (decodedEntry_head (k := k) h hw)
    have hsame : SameDictionary (countIn { decodeCode k s with halfValid := false }) (decodeCode k s) :=
      ⟨rfl, rfl, rfl⟩
    refine ⟨decodedEntry k s, decodedFirst k s, rest, hentry, ?outq, ?string, ?size, ?new⟩
    case outq => simp [decodeCode, hw]
    case string =>
      rw [hsame.strOf, countIn_wCode, decodeCode_wCode]
      exact strOf_decodeCode_code h hw hroom hk
    case size =>
      rw [hsame.size]
      exact decodeCode_size h hw hroom
    case new =>
      rw [hsame.strOf]
      exact strOf_decodeCode_new h hw hroom

end Sys2Proof.Machine
end

section
/-! The invariant of the machine (10_state.md R30) is kept by every step: first each of its parts by every command the
gate lets through, then the whole by the gate, by an illegal word and by an edge. -/

namespace Sys2Proof.Machine

open Sys2Proof

/-! ## `MODE` and the flags, by mode (R30 items 1 to 4 and 8) -/

section
variable {s : State}

theorem controlOk_idle_iff (hm : s.mode = .idle) :
    s.ControlOk ↔ s.err = .noError ∧ s.wValid = false ∧ s.halfValid = false ∧ s.faultCmd = 0#16 := by
  simp [State.ControlOk, hm, and_left_comm, and_assoc]

theorem controlOk_encode_iff (hm : s.mode = .encode) :
    s.ControlOk ↔ s.err = .noError ∧ s.done = false ∧ s.halfValid = false ∧ s.faultCmd = 0#16 := by
  simp [State.ControlOk, hm]

theorem controlOk_decode_iff (hm : s.mode = .decode) :
    s.ControlOk ↔ s.err = .noError ∧ s.done = false ∧ s.faultCmd = 0#16 := by
  simp [State.ControlOk, hm]

theorem controlOk_fault_iff (hm : s.mode = .fault) :
    s.ControlOk ↔ s.err ≠ .noError ∧ s.done = false ∧ s.faultCmd ≠ 0#16 := by
  simp [State.ControlOk, hm]

/-! ## The counters, by mode (R30 items 10 and 11) -/

theorem countsOk_encode_iff (hm : s.mode = .encode) :
    s.CountsOk ↔ s.outCount.toNat = 2 * (s.dictSize.toNat - 256) := by
  simp [State.CountsOk, hm]

theorem countsOk_decode_iff (hm : s.mode = .decode) :
    s.CountsOk ↔
      s.dictSize.toNat = 256 + (s.inCount.toNat / 2 - 1) ∧ (s.wValid = true ↔ 2 ≤ s.inCount.toNat) ∧
      (s.halfValid = true ↔ s.inCount.toNat % 2 = 1) := by
  simp [State.CountsOk, hm]

/-- Outside an operation nothing is counted. -/
theorem countsOk_of_closed (hm : s.mode = .idle ∨ s.mode = .fault) : s.CountsOk := by
  rcases hm with hm | hm <;> simp [State.CountsOk, hm]

end

/-! ## The form of the model's own state -/

theorem formOk_emit (bs : List Byte) {s : State} (h : s.FormOk) : (emit bs s).FormOk := by
  obtain ⟨hwf, hcodes, hcount⟩ := h
  refine ⟨hwf, hcodes, ?_⟩
  rw [emit_outCount, hcount, ← BitVec.ofNat_add, emit_popped, emit_outq, List.length_append, Nat.add_assoc]

theorem formOk_dictInsert (p : Code) (c : Byte) {s : State} (h : s.FormOk) (hentries : EntriesOk s)
    (hroom : s.dictSize ≠ 65536#17) : (dictInsert p c s).FormOk := by
  obtain ⟨hwf, hcodes, hcount⟩ := h
  refine ⟨wf_dictInsert p c hwf, fun q hq => ?_, hcount⟩
  rcases mem_set hq with rfl | hq
  · exact ⟨hentries.size_ge, hentries.size_lt hroom⟩
  · exact hcodes q hq

/-! ## Fault entry (R112) and a fresh start (R81, R90, R101) -/

theorem inv_raiseFault {cause : ErrCode} {cmd : Word} {s : State} (h : s.Inv) (hcause : cause ≠ .noError)
    (hcmd : cmd ≠ 0#16) : (raiseFault cause cmd s).Inv := by
  obtain ⟨-, hdict, -, -, hform⟩ := h
  exact ⟨(controlOk_fault_iff rfl).2 ⟨hcause, rfl, hcmd⟩, hdict, nofun, countsOk_of_closed (.inr rfl), hform⟩

theorem inv_freshStart {m : Mode} (hm : m ≠ .fault) {s : State} (h : s.FormOk) : (freshStart m s).Inv := by
  obtain ⟨hwf, hcodes, -⟩ := h
  refine ⟨?control, ?dict, fun _ => strInjective_of_seed rfl, ?counts, hwf, hcodes, by simp⟩
  case control => simp [State.ControlOk, hm]
  case dict => exact (dictOk_iff _).2 ⟨entriesOk_of_seed rfl, nofun⟩
  case counts => simp [State.CountsOk]

/-! ## What is left of the invariant in each mode -/

theorem inv_of_encode {s : State} (hm : s.mode = .encode)
    (hcontrol : s.err = .noError ∧ s.done = false ∧ s.halfValid = false ∧ s.faultCmd = 0#16) (hdict : s.DictOk)
    (hinj : s.StrInjective) (hcount : s.outCount.toNat = 2 * (s.dictSize.toNat - 256)) (hform : s.FormOk) : s.Inv :=
  ⟨(controlOk_encode_iff hm).2 hcontrol, hdict, fun _ => hinj, (countsOk_encode_iff hm).2 hcount, hform⟩

theorem inv_of_decode {s : State} (hm : s.mode = .decode)
    (hcontrol : s.err = .noError ∧ s.done = false ∧ s.faultCmd = 0#16) (hdict : s.DictOk)
    (hcounts : s.dictSize.toNat = 256 + (s.inCount.toNat / 2 - 1) ∧ (s.wValid = true ↔ 2 ≤ s.inCount.toNat) ∧
      (s.halfValid = true ↔ s.inCount.toNat % 2 = 1)) (hform : s.FormOk) : s.Inv :=
  ⟨(controlOk_decode_iff hm).2 hcontrol, hdict, by simp [hm], (countsOk_decode_iff hm).2 hcounts, hform⟩

theorem inv_of_idle {s : State} (hm : s.mode = .idle)
    (hcontrol : s.err = .noError ∧ s.wValid = false ∧ s.halfValid = false ∧ s.faultCmd = 0#16)
    (hentries : EntriesOk s) (hform : s.FormOk) : s.Inv :=
  have hw : s.wValid = true → s.wCode.toNat < s.dictSize.toNat := fun hw => by simp [hw] at hcontrol
  ⟨(controlOk_idle_iff hm).2 hcontrol, (dictOk_iff s).2 ⟨hentries, hw⟩, by simp [hm], countsOk_of_closed (.inl hm),
    hform⟩

/-! ## The commands that take a byte or end an operation -/

theorem toNat_add_one {x : Word32} (h : x.toNat < 2 ^ 32 - 1) : (x + 1#32).toNat = x.toNat + 1 := by
  rw [BitVec.toNat_add, BitVec.toNat_ofNat]
  omega

theorem toNat_add_two {x : Word32} (h : x.toNat < 2 ^ 32 - 2) : (x + 2#32).toNat = x.toNat + 2 := by
  rw [BitVec.toNat_add, BitVec.toNat_ofNat]
  omega

theorem encode_ne_zero {i : Instr} (h : i ≠ .nop) : encode i ≠ 0x0000#16 := by
  intro hzero
  have hdecode : decode (encode i) = some .nop := by rw [hzero]; decide
  rw [decode_encode] at hdecode
  exact h (Option.some.inj hdecode)

section
variable {s : State} (h : s.Inv)
include h

theorem inv_takeInputByte (c : Byte) (hm : s.mode = .encode) : (takeInputByte c s).Inv := by
  have hfaulted := inv_raiseFault (cause := .capacityExceeded) h (by decide)
    (encode_ne_zero (i := .encByte c) nofun)
  have hentries := entriesOk_of_inv h
  have hinj := strInjective_of_inv h hm
  obtain ⟨hcontrol, hdict, -, hcounts, hform⟩ := h
  have hdict' := dictOk_takeInputByte c hdict
  have hinj' := strInjective_takeInputByte c hdict hinj
  rw [controlOk_encode_iff hm] at hcontrol
  rw [countsOk_encode_iff hm] at hcounts
  rcases takeInputByte_cases c s with ⟨-, ht⟩ | ⟨-, k, -, ht⟩ | ⟨-, -, -, ht⟩ | ⟨-, -, hroom, ht⟩ <;>
    rw [ht] at hdict' hinj' ⊢
  · exact inv_of_encode hm hcontrol hdict' hinj' hcounts hform
  · exact inv_of_encode hm hcontrol hdict' hinj' hcounts hform
  · exact hfaulted
  · have hge := hentries.size_ge
    have hlt := hentries.size_lt hroom
    have hform' := formOk_dictInsert s.wCode c (formOk_emit (codeBytes s.wCode) hform) hentries hroom
    refine inv_of_encode hm hcontrol hdict' hinj' ?count hform'
    case count =>
      rw [(sameDictionary_encodeMiss c s).size, dictInsert_size hlt, countIn_outCount, encodeMiss_outCount,
        toNat_add_two (by omega)]
      omega

theorem inv_flushAndClose (hm : s.mode = .encode) : (flushAndClose s).Inv := by
  have hentries := entriesOk_of_inv h
  obtain ⟨hcontrol, -, -, -, hform⟩ := h
  obtain ⟨herr, -, hhalf, hcmd⟩ := (controlOk_encode_iff hm).1 hcontrol
  rcases flushAndClose_cases s with ⟨-, ht⟩ | ⟨-, ht⟩ <;> rw [ht]
  · exact inv_of_idle rfl ⟨herr, rfl, hhalf, hcmd⟩ hentries (formOk_emit _ hform)
  · exact inv_of_idle rfl ⟨herr, rfl, hhalf, hcmd⟩ hentries hform

theorem inv_closeDecode (hm : s.mode = .decode) : (closeDecode s).Inv := by
  rcases closeDecode_cases s with ⟨-, ht⟩ | ⟨hh, ht⟩ <;> rw [ht]
  · exact inv_raiseFault h (by decide) (encode_ne_zero nofun)
  · have hentries := entriesOk_of_inv h
    obtain ⟨hcontrol, -, -, -, hform⟩ := h
    obtain ⟨herr, -, hcmd⟩ := (controlOk_decode_iff hm).1 hcontrol
    exact inv_of_idle rfl ⟨herr, rfl, hh, hcmd⟩ hentries hform

theorem formOk_decodeCode {k : Code} (hf : codeFault k s = none) : (decodeCode k s).FormOk := by
  have hentries := entriesOk_of_inv h
  obtain ⟨-, -, -, -, hform⟩ := h
  rcases codeFault_none.1 hf with ⟨hw, -⟩ | ⟨hw, -, hroom⟩
  · rw [decodeCode_first hw]
    exact formOk_emit _ hform
  · rw [decodeCode_later hw]
    exact formOk_dictInsert s.wCode _ (formOk_emit _ hform) hentries hroom

/-- Each later code, and no first code, assigns a code: `DICT_SIZE` keeps up with the codes decoded. -/
theorem decodeCode_size_of_counts {k : Code} (hf : codeFault k s = none) (hm : s.mode = .decode)
    (hh : s.halfValid = true) :
    (decodeCode k s).dictSize.toNat = 256 + ((s.inCount.toNat + 1) / 2 - 1) := by
  obtain ⟨-, hdict, -, hcounts, -⟩ := h
  obtain ⟨hsize, hwValid, hhalfValid⟩ := (countsOk_decode_iff hm).1 hcounts
  rw [hh, eq_self_iff_true, true_iff] at hhalfValid
  rw [decodeCode_size_eq hdict hf]
  cases hw : s.wValid with
  | false =>
    have hfew : ¬2 ≤ s.inCount.toNat := fun htwo => by simp [hwValid.2 htwo] at hw
    rw [Bool.toNat_false]
    omega
  | true =>
    have htwo := hwValid.1 hw
    rw [Bool.toNat_true]
    omega

theorem inv_takePackedByte (b : Byte) (hm : s.mode = .decode) : (takePackedByte b s).Inv := by
  have hsize := (entriesOk_of_inv h).size_le
  have hfaulted {cause : ErrCode} (hcause : DataCause cause) :=
    inv_raiseFault h hcause.ne_noError (encode_ne_zero (i := .decByte b) nofun)
  have hcodeForm {k : Code} := formOk_decodeCode (k := k) h
  have hcodeSize {k : Code} := decodeCode_size_of_counts (k := k) h
  obtain ⟨hcontrol, hdict, -, hcounts, hform⟩ := h
  rw [controlOk_decode_iff hm] at hcontrol
  obtain ⟨hcount, hwValid, hhalfValid⟩ := (countsOk_decode_iff hm).1 hcounts
  have hin := toNat_add_one (x := s.inCount) (by omega)
  rcases takePackedByte_cases b s with ⟨hh, ht⟩ | ⟨-, cause, hcause, ht⟩ | ⟨hh, hf, ht⟩ <;> rw [ht]
  · have heven : ¬s.inCount.toNat % 2 = 1 := fun hodd => by simp [hhalfValid.2 hodd] at hh
    refine inv_of_decode hm hcontrol hdict ?_ hform
    have hcount' : s.dictSize.toNat = 256 + ((s.inCount.toNat + 1) / 2 - 1) := by omega
    rw [countIn_inCount, hin]
    exact ⟨hcount', hwValid.trans (by omega), iff_of_true rfl (by omega)⟩
  · exact hfaulted (dataCause_of_codeFault hcause)
  · have hodd : s.inCount.toNat % 2 = 1 := hhalfValid.1 hh
    obtain ⟨hmode, herr, hdone, hcmd, -, hinCount, -⟩ := decodeCode_frame (assembleCode b s.halfByte) s
    refine inv_of_decode (hmode.trans hm) ?control (dictOk_decodeCode hdict hf) ?counts (hcodeForm hf)
    case control =>
      obtain ⟨h₁, h₂, h₃⟩ := hcontrol
      exact ⟨herr.trans h₁, hdone.trans h₂, hcmd.trans h₃⟩
    case counts =>
      rw [countIn_inCount, hinCount, hin]
      refine ⟨hcodeSize hf hm hh, iff_of_true (decodeCode_wValid _ s) ?_, iff_of_false nofun (by omega)⟩
      omega

end

/-! ## Every command and every word -/

/-- Every command that the gate lets through keeps the invariant. -/
theorem inv_effectOf {i : Instr} {s : State} (h : s.Inv) (hlegal : legal i s.mode = true) : (effectOf i s).Inv := by
  have hform : s.FormOk := by
    obtain ⟨-, -, -, -, hform⟩ := h
    exact hform
  cases i with
  | nop => exact h
  | encStart | decStart | abort => exact inv_freshStart (by decide) hform
  | encByte c => exact inv_takeInputByte h c (by simpa [legal] using hlegal)
  | encEnd => exact inv_flushAndClose h (by simpa [legal] using hlegal)
  | decByte b => exact inv_takePackedByte h b (by simpa [legal] using hlegal)
  | decEnd => exact inv_closeDecode h (by simpa [legal] using hlegal)

theorem inv_coreNext (w : Word) {s : State} (h : s.Inv) : (coreNext w s).Inv := by
  rw [coreNext]
  split
  · next i hd =>
    rcases performIfLegal_cases i (effectOf i) s with ⟨hlegal, hi⟩ | ⟨-, -, hi⟩ | ⟨hillegal, hm, hi⟩ <;> rw [hi]
    · exact inv_effectOf h hlegal
    · exact h
    · have hnop : i ≠ .nop := by
        rintro rfl
        cases hmode : s.mode <;> simp_all [legal]
      exact inv_raiseFault h (by decide) (encode_ne_zero hnop)
  · next hd =>
    rw [takeIllegal]
    split
    · exact h
    · refine inv_raiseFault h (by decide) ?_
      rintro rfl
      exact absurd hd (by decide)

/-- In FAULT mode a word is dropped or is one of the three that start afresh (R114). -/
theorem coreNext_of_fault (w : Word) {s : State} (hm : s.mode = .fault) :
    coreNext w s = s ∨ (w ∈ [0x0100#16, 0x1100#16, 0x2000#16] ∧ ∃ m, m ≠ .fault ∧ coreNext w s = freshStart m s) := by
  have hnext := (coreStep_eq w s).symm.trans (faultModeActsOnThreeWords w s hm)
  have hstart {i : Instr} {m : Mode} (hi : exec i s = .next (freshStart m s))
      (hnext : Host.Outcome.next (coreNext w s) = exec i s) : coreNext w s = freshStart m s :=
    Host.Outcome.next.inj (hnext.trans hi)
  split at hnext
  · next hw => exact .inr ⟨by simp [hw], .encode, by decide, hstart (exec_of_legal rfl) hnext⟩
  split at hnext
  · next hw => exact .inr ⟨by simp [hw], .decode, by decide, hstart (exec_of_legal rfl) hnext⟩
  split at hnext
  · next hw => exact .inr ⟨by simp [hw], .idle, by decide, hstart (exec_of_legal rfl) hnext⟩
  exact .inl (Host.Outcome.next.inj hnext)

/-- What a word leaves in FAULT mode has the arrays it found: it was dropped, or has only made fault entry. -/
theorem sameDictionary_of_coreNext_fault {w : Word} {s : State} (hf : (coreNext w s).mode = .fault) :
    SameDictionary (coreNext w s) s := by
  by_cases hm : s.mode = .fault
  · rcases coreNext_of_fault w hm with hnext | ⟨-, m, hopen, hnext⟩ <;> rw [hnext] at hf ⊢
    · exact ⟨rfl, rfl, rfl⟩
    · exact absurd hf hopen
  · obtain ⟨cause, -, hnext⟩ := coreNext_faulted hm hf
    rw [hnext]
    exact ⟨rfl, rfl, rfl⟩

/-! ## Every edge -/

theorem State.SameCore.sameDictionary {s t : State} (h : State.SameCore s t) : SameDictionary s t := by
  obtain ⟨-, -, -, -, -, hsize, -, -, -, -, -, -, hdict, hepoch⟩ := h
  exact ⟨hdict, hepoch, hsize⟩

/-- The invariant speaks of the registers, the arrays and the number of bytes emitted. -/
theorem State.SameCore.inv {s t : State} (hsame : State.SameCore s t) (h : s.Inv) : t.Inv := by
  have hd := hsame.sameDictionary
  obtain ⟨hmode, herr, hdone, hwValid, hwCode, hsize, hhalf, -, hcmd, hin, hout, hbytes, hdict, -⟩ := hsame
  obtain ⟨hcontrol, hdictOk, hinj, hcounts, hwf, hcodes, hcount⟩ := h
  have hlength := congrArg List.length hbytes
  rw [List.length_append, List.length_append] at hlength
  refine ⟨?control, ?dict, ?inj, ?counts, hdict ▸ hwf, hdict ▸ hcodes, ?count⟩
  case control => simpa only [State.ControlOk, hmode, herr, hdone, hwValid, hhalf, hcmd] using hcontrol
  case dict => simpa only [dictOk_iff, hd.entriesOk, hwValid, hwCode, hsize] using hdictOk
  case inj => simpa only [hmode, hd.strInjective] using hinj
  case counts => simpa only [State.CountsOk, hmode, hsize, hin, hwValid, hhalf, hout] using hcounts
  case count => rw [← hout, hcount, hlength]

theorem inv_resetCore (gap : Nat) (s : State) : (resetCore gap s).Inv :=
  inv_of_idle rfl ⟨rfl, rfl, rfl, rfl⟩ (entriesOk_of_seed rfl) ⟨rfl, nofun, rfl⟩

/-- What an edge comes to, up to the registers: nothing, a reset, or the core step of the word accepted. -/
theorem step_registers {s t : State} (h : step s = .next t) :
    State.SameCore s t ∨ (∃ gap u, t = resetCore gap u) ∨ ∃ w u, State.SameCore s u ∧ t = coreNext w u := by
  rcases step_spec h with ⟨-, rfl⟩ | ⟨e, rest, -, ⟨-, rfl⟩ | ⟨-, -, rfl⟩ | ⟨-, -, -, rfl⟩ | ⟨w, -, -, -, rfl⟩⟩
  · exact .inl (.refl _)
  · exact .inr (.inl ⟨_, _, rfl⟩)
  · exact .inl ((sameCore_sampleAndPop e rest s).trans (sameCore_waitBusy _ _))
  · exact .inl ((sameCore_sampleAndPop e rest s).trans (sameCore_restReady _ _))
  · exact .inr (.inr ⟨w, _, (sameCore_sampleAndPop e rest s).trans (sameCore_acceptWord _ _ _), rfl⟩)

/-- Settles O47: the reset state has the seed dictionary, no operation and an empty table. -/
theorem invariantHoldsAtReset : Obligations.InvariantHoldsAtReset := by
  unfold Obligations.InvariantHoldsAtReset
  exact inv_of_idle rfl ⟨rfl, rfl, rfl, rfl⟩ (entriesOk_of_seed rfl) ⟨rfl, nofun, rfl⟩

/-- R30 item 9 where FAULT mode is entered from ENCODE mode or kept: the arrays are the ones before. -/
theorem strInjective_of_step_fault {s t : State} (hinj : s.StrInjective) (hstep : step s = .next t)
    (hf : t.mode = .fault) : t.StrInjective := by
  rcases step_registers hstep with hsame | ⟨gap, u, rfl⟩ | ⟨w, u, hsame, rfl⟩
  · exact hsame.sameDictionary.strInjective.1 hinj
  · cases hf
  · exact (hsame.sameDictionary.strInjective.1 hinj).of_sameDictionary (sameDictionary_of_coreNext_fault hf)

/-- Settles O48: a step keeps the registers, takes the reset values or performs a core step, and each has its lemma. -/
theorem invariantIsKeptByEveryStep : Obligations.InvariantIsKeptByEveryStep := by
  unfold Obligations.InvariantIsKeptByEveryStep
  intro s t h hstep
  refine ⟨?_, fun hf hbefore => ?_⟩
  · rcases step_registers hstep with hsame | ⟨gap, u, rfl⟩ | ⟨w, u, hsame, rfl⟩
    · exact hsame.inv h
    · exact inv_resetCore gap u
    · exact inv_coreNext w (hsame.inv h)
  · rcases hbefore with henc | ⟨-, hinj⟩
    · exact strInjective_of_step_fault (strInjective_of_inv h henc) hstep hf
    · exact strInjective_of_step_fault hinj hstep hf

/-! ## FAULT mode is sticky (R115) -/

/-- Settles O24: an edge without a command keeps the registers, and an accepted word is dropped or one of the three. -/
theorem faultModeIsSticky : Obligations.FaultModeIsSticky := by
  unfold Obligations.FaultModeIsSticky
  intro s t hm hstep
  have hkept {u : State} (h : State.SameCore s u) : u.mode = .fault ∧ u.err = s.err ∧ u.faultCmd = s.faultCmd := by
    obtain ⟨hmode, herr, -, -, -, -, -, -, hcmd, -⟩ := h
    exact ⟨hmode ▸ hm, herr.symm, hcmd.symm⟩
  rcases step_spec hstep with ⟨-, rfl⟩ | ⟨e, rest, he, ⟨hr, -⟩ | ⟨-, -, rfl⟩ | ⟨-, -, -, rfl⟩ | ⟨w, -, hb, ho, rfl⟩⟩
  · exact .inl (hkept (.refl _))
  · exact .inr ⟨e, rest, he, .inl hr⟩
  · exact .inl (hkept ((sameCore_sampleAndPop e rest s).trans (sameCore_waitBusy _ _)))
  · exact .inl (hkept ((sameCore_sampleAndPop e rest s).trans (sameCore_restReady _ _)))
  · have hsame := (sameCore_sampleAndPop e rest s).trans (sameCore_acceptWord e.gap s.cmdq.tail _)
    rcases coreNext_of_fault w (hkept hsame).1 with hnext | ⟨hw, -⟩
    · exact .inl (hkept (hnext.symm ▸ hsame))
    · obtain ⟨hv, ws, hq⟩ := offered_some_iff.1 ho
      exact .inr ⟨e, rest, he, .inr ⟨hv, hb, w, ws, hq, hw⟩⟩

/-! ## The table's form (log 4) -/

/-- A command writes no entry, or it is a data command that writes the one at code `DICT_SIZE`. -/
theorem performIfLegal_dict (i : Instr) (s : State) :
    (performIfLegal i (effectOf i) s).dict = s.dict ∨
    (((∃ c, i = .encByte c) ∨ ∃ b, i = .decByte b) ∧
      ∃ c, (performIfLegal i (effectOf i) s).dict = (dictInsert s.wCode c s).dict) := by
  rcases performIfLegal_cases i (effectOf i) s with ⟨-, hi⟩ | ⟨-, -, hi⟩ | ⟨-, -, hi⟩ <;> rw [hi]
  · rcases effectOf_dict i s with hdict | ⟨hdata, -, -, hdict, -⟩
    · exact .inl hdict
    · exact .inr ⟨hdata, hdict⟩
  · exact .inl rfl
  · exact .inl rfl

theorem coreNext_dict (w : Word) (s : State) :
    (coreNext w s).dict = s.dict ∨ ∃ c, (coreNext w s).dict = (dictInsert s.wCode c s).dict := by
  rw [coreNext]
  split
  · next i _ => exact (performIfLegal_dict i s).imp_right fun ⟨_, hdict⟩ => hdict
  · left
    rw [takeIllegal]
    split <;> rfl

/-- Settles O49: only a core step and a reset write the table, and a write keeps the codes rising. -/
theorem tableFormIsKeptByEveryStep : Obligations.TableFormIsKeptByEveryStep := by
  unfold Obligations.TableFormIsKeptByEveryStep
  intro s t hwf hstep
  rcases step_registers hstep with hsame | ⟨gap, u, rfl⟩ | ⟨w, u, hsame, rfl⟩
  · exact hsame.sameDictionary.1 ▸ hwf
  · exact wf_resetCore gap u
  · have hwf : Memory.wf u.dict = true := hsame.sameDictionary.1 ▸ hwf
    rcases coreNext_dict w u with hdict | ⟨c, hdict⟩ <;> rw [hdict]
    · exact hwf
    · exact wf_dictInsert u.wCode c hwf

end Sys2Proof.Machine
end

section
/-! The functions of the encoder (40_encoder.md R79, R86): what one iteration of the loop does, and what holds after any
number of input bytes. -/

namespace Sys2Proof.Machine

open Sys2Proof

/-! ## `D(w)` of the encoder -/

@[simp] theorem codeOfString_singleton (d : StringTable) (b : Byte) : codeOfString d [b] = some b.toNat := rfl

/-- Only single bytes are seed keys. -/
theorem codeOfString_of_length_ne_one {w : List Byte} (d : StringTable) (h : w.length ≠ 1) :
    codeOfString d w = (d.findIdx? (· == w)).map (256 + ·) := by
  match w, h with
  | [], _ => rfl
  | _ :: _ :: _, _ => rfl

/-- A key is a single byte, or stands in the table at its code less 256. -/
theorem codeOfString_some {d : StringTable} {w : List Byte} {k : Nat} (h : codeOfString d w = some k) :
    (∃ b, w = [b] ∧ k = b.toNat) ∨ (256 ≤ k ∧ d[k - 256]? = some w) := by
  by_cases hw : w.length = 1
  · obtain ⟨b, rfl⟩ := List.length_eq_one_iff.1 hw
    exact .inl ⟨b, rfl, (Option.some.inj h).symm⟩
  · rw [codeOfString_of_length_ne_one d hw, Option.map_eq_some_iff] at h
    obtain ⟨i, hi, rfl⟩ := h
    obtain ⟨hlt, hmatch, -⟩ := List.findIdx?_eq_some_iff_getElem.1 hi
    refine .inr ⟨Nat.le_add_right _ _, ?_⟩
    rw [Nat.add_sub_cancel_left, List.getElem?_eq_getElem hlt]
    exact congrArg some (beq_iff_eq.1 hmatch)

theorem codeOfString_lt {d : StringTable} {w : List Byte} {k : Nat} (h : codeOfString d w = some k) :
    k < nextCode d := by
  rw [nextCode]
  rcases codeOfString_some h with ⟨b, -, rfl⟩ | ⟨-, hk⟩
  · have := b.isLt
    omega
  · obtain ⟨hlt, -⟩ := List.getElem?_eq_some_iff.1 hk
    omega

/-! ## One iteration (R79) -/

namespace Compressor

variable {m m' : Compressor} {c : Byte}

theorem next_of_known {k : Nat} (h : codeOfString m.table (m.work ++ [c]) = some k) :
    m.next c = some { m with work := m.work ++ [c] } := by
  simp [next, h]

theorem next_of_full (h : codeOfString m.table (m.work ++ [c]) = none) (hfull : nextCode m.table = 65536) :
    m.next c = none := by
  simp [next, h, hfull]

theorem next_of_new (h : codeOfString m.table (m.work ++ [c]) = none) (hroom : nextCode m.table ≠ 65536) :
    m.next c = some { table := m.table ++ [m.work ++ [c]], work := [c], out := m.flush } := by
  simp [next, h, hroom]

/-- An iteration extends `w`, or emits its code and inserts `wc`, or fails at a full dictionary. -/
theorem next_cases (m : Compressor) (c : Byte) :
    ((∃ k, codeOfString m.table (m.work ++ [c]) = some k) ∧ m.next c = some { m with work := m.work ++ [c] }) ∨
    (codeOfString m.table (m.work ++ [c]) = none ∧ nextCode m.table = 65536 ∧ m.next c = none) ∨
    (codeOfString m.table (m.work ++ [c]) = none ∧ nextCode m.table ≠ 65536 ∧
      m.next c = some { table := m.table ++ [m.work ++ [c]], work := [c], out := m.flush }) := by
  cases h : codeOfString m.table (m.work ++ [c]) with
  | some k => exact .inl ⟨⟨k, rfl⟩, next_of_known h⟩
  | none =>
    by_cases hfull : nextCode m.table = 65536
    · exact .inr (.inl ⟨rfl, hfull, next_of_full h hfull⟩)
    · exact .inr (.inr ⟨rfl, hfull, next_of_new h hfull⟩)

theorem run_append (m : Compressor) (x y : List Byte) : m.run (x ++ y) = (m.run x).bind (·.run y) := by
  induction x generalizing m with
  | nil => rfl
  | cons c x ih =>
    rw [List.cons_append, run, run]
    cases m.next c with
    | none => rfl
    | some m' => exact ih m'

theorem run_singleton (m : Compressor) (c : Byte) : m.run [c] = m.next c := by
  rw [run]
  cases m.next c <;> rfl

theorem flush_of_known {k : Nat} (h : codeOfString m.table m.work = some k) :
    m.flush = m.out ++ [BitVec.ofNat 16 k] := by
  simp [flush, h]

/-! ## What holds after `n` bytes -/

/-- The loop's variables after `n` bytes: one code emitted per string stored, `w` empty at the start only and a key
after it, and the table within its capacity. -/
structure Reached (m : Compressor) (n : Nat) : Prop where
  out_length : m.out.length = m.table.length
  work_eq_nil : m.work = [] ↔ n = 0
  table_length : m.table.length ≤ n - 1
  known : n ≠ 0 → ∃ k, codeOfString m.table m.work = some k
  room : nextCode m.table ≤ 65536

theorem reached_start : start.Reached 0 where
  out_length := rfl
  work_eq_nil := iff_of_true rfl rfl
  table_length := Nat.le_refl 0
  known h := absurd rfl h
  room := by decide

/-- The first byte of an input is a seed key, so a string that is no key extends a non-empty `w`. -/
theorem Reached.ne_zero_of_new {n : Nat} (h : m.Reached n) (hnew : codeOfString m.table (m.work ++ [c]) = none) :
    n ≠ 0 := by
  intro hn
  rw [h.work_eq_nil.2 hn] at hnew
  cases hnew

/-- The code list after a flush is longer by the code of `w`. -/
theorem Reached.flush_length {n : Nat} (h : m.Reached n) (hn : n ≠ 0) : m.flush.length = m.table.length + 1 := by
  obtain ⟨k, hk⟩ := h.known hn
  rw [flush_of_known hk, List.length_append, h.out_length, List.length_singleton]

theorem Reached.next {n : Nat} (h : m.Reached n) (hnext : m.next c = some m') : m'.Reached (n + 1) := by
  have hspent := h.table_length
  have hroom := h.room
  rcases next_cases m c with ⟨hknown, hm⟩ | ⟨-, -, hm⟩ | ⟨hnew, hcap, hm⟩ <;> rw [hm] at hnext <;> cases hnext
  · exact
      { out_length := h.out_length
        work_eq_nil := by simp
        table_length := by simp only; omega
        known := fun _ => hknown
        room := hroom }
  · have hn := h.ne_zero_of_new hnew
    rw [nextCode] at hroom hcap
    exact
      { out_length := by simp [h.flush_length hn]
        work_eq_nil := by simp
        table_length := by simp only [List.length_append, List.length_singleton]; omega
        known := fun _ => ⟨c.toNat, rfl⟩
        room := by simp only [nextCode, List.length_append, List.length_singleton]; omega }

theorem Reached.run {n : Nat} {x : List Byte} (h : m.Reached n) (hrun : m.run x = some m') :
    m'.Reached (n + x.length) := by
  induction x generalizing m n with
  | nil =>
    cases hrun
    exact h
  | cons c x ih =>
    rw [Compressor.run] at hrun
    cases hnext : m.next c with
    | none => simp [hnext] at hrun
    | some m₁ =>
      rw [hnext] at hrun
      have hlast := ih (h.next hnext) hrun
      rwa [List.length_cons, Nat.add_comm x.length, ← Nat.add_assoc]

theorem Reached.finish_nil (h : m.Reached 0) : m.finish = [] := by
  have hlength := h.out_length
  have htable := h.table_length
  rw [finish, h.work_eq_nil.2 rfl, List.isEmpty_nil, if_pos rfl]
  exact List.length_eq_zero_iff.1 (by omega)

theorem Reached.finish_flush {n : Nat} (h : m.Reached n) (hn : n ≠ 0) : m.finish = m.flush := by
  have hwork : m.work ≠ [] := fun hnil => hn (h.work_eq_nil.1 hnil)
  simp [finish, hwork]

/-- R84: `N` codes store `max(0, N - 1)` strings. -/
theorem Reached.table_length_eq {n : Nat} (h : m.Reached n) : m.table.length = m.finish.length - 1 := by
  by_cases hn : n = 0
  · subst hn
    have htable := h.table_length
    rw [h.finish_nil, List.length_nil]
    omega
  · rw [h.finish_flush hn, h.flush_length hn, Nat.add_sub_cancel]

theorem Reached.finish_length_le {n : Nat} (h : m.Reached n) : m.finish.length ≤ n := by
  by_cases hn : n = 0
  · subst hn
    exact Nat.le_of_eq (congrArg List.length h.finish_nil)
  · have hspent := h.table_length
    rw [h.finish_flush hn, h.flush_length hn]
    omega

/-- Before byte 65281 the table, which is shorter than the input so far, has room. -/
theorem Reached.exists_run {n : Nat} {x : List Byte} (h : m.Reached n) (hshort : n + x.length ≤ 65281) :
    ∃ m', m.run x = some m' := by
  induction x generalizing m n with
  | nil => exact ⟨m, rfl⟩
  | cons c x ih =>
    rw [List.length_cons] at hshort
    have hspent := h.table_length
    obtain ⟨m₁, hnext⟩ : ∃ m₁, m.next c = some m₁ := by
      rcases next_cases m c with ⟨-, hm⟩ | ⟨-, hfull, -⟩ | ⟨-, -, hm⟩
      · exact ⟨_, hm⟩
      · rw [nextCode] at hfull
        omega
      · exact ⟨_, hm⟩
    obtain ⟨m', hrun⟩ := ih (h.next hnext) (by omega)
    exact ⟨m', by rw [Compressor.run, hnext]; exact hrun⟩

end Compressor

theorem compressR_eq_some {x : List Byte} {codes : List Code} :
    compressR x = some codes ↔ ∃ m, Compressor.start.run x = some m ∧ m.finish = codes :=
  Option.map_eq_some_iff

/-- The variables at the end of an input. -/
theorem reached_of_run {x : List Byte} {m : Compressor} (h : Compressor.start.run x = some m) : m.Reached x.length := by
  have hreached := Compressor.reached_start.run h
  rwa [Nat.zero_add] at hreached

/-- Settles O54: each string stored takes a byte of the input after its first, and each code but the last stores one. -/
theorem shortInputsEncode : Obligations.ShortInputsEncode := by
  unfold Obligations.ShortInputsEncode
  intro x hshort
  obtain ⟨m, hrun⟩ := Compressor.reached_start.exists_run (x := x) (by rwa [Nat.zero_add])
  exact ⟨m.finish, compressR_eq_some.2 ⟨m, hrun, rfl⟩, (reached_of_run hrun).finish_length_le⟩

end Sys2Proof.Machine
end

section
/-! The encoder's commands compute `compress_R` (40_encoder.md R84): the state of the core after `ENC_START` and any
bytes stands for the loop's variables after those bytes. -/

namespace Sys2Proof.Machine

open Sys2Proof

/-! ## A list of words -/

/-- The state after the core steps of a list of words. -/
def runNext (ws : List Word) (s : State) : State := ws.foldl (fun t w => coreNext w t) s

theorem runWords_eq (ws : List Word) (s : State) : runWords ws s = .next (runNext ws s) := by
  induction ws generalizing s with
  | nil => rfl
  | cons w ws ih =>
    rw [runWords, coreStep_eq]
    exact ih (coreNext w s)

@[simp] theorem runNext_nil (s : State) : runNext [] s = s := rfl

@[simp] theorem runNext_cons (w : Word) (ws : List Word) (s : State) :
    runNext (w :: ws) s = runNext ws (coreNext w s) := rfl

@[simp] theorem runNext_append (ws more : List Word) (s : State) :
    runNext (ws ++ more) s = runNext more (runNext ws s) := List.foldl_append

/-- The core step on the word of a command is the gate around its effect. -/
theorem coreNext_encode (i : Instr) (s : State) : coreNext (encode i) s = performIfLegal i (effectOf i) s := by
  rw [coreNext, decode_encode]

theorem coreNext_of_legal {i : Instr} {s : State} (h : legal i s.mode = true) :
    coreNext (encode i) s = effectOf i s := by
  rw [coreNext_encode, performIfLegal_legal _ h]

/-- In FAULT mode a list of words that neither start nor abort leaves the state as it is (R114). -/
theorem runNext_of_fault {ws : List Word} {s : State} (hm : s.mode = .fault)
    (hws : ∀ w ∈ ws, w ∉ [0x0100#16, 0x1100#16, 0x2000#16]) : runNext ws s = s := by
  induction ws with
  | nil => rfl
  | cons w ws ih =>
    obtain ⟨hw, hws⟩ := List.forall_mem_cons.1 hws
    rcases coreNext_of_fault w hm with hnext | ⟨hw', -⟩
    · rw [runNext_cons, hnext, ih hws]
    · exact absurd hw' hw

/-- The words of an operation after its START are none of the three that the FAULT filter lets through. -/
theorem encode_not_start {i : Instr} (h : (∃ c, i = .encByte c) ∨ i = .encEnd ∨ (∃ b, i = .decByte b) ∨ i = .decEnd) :
    encode i ∉ [0x0100#16, 0x1100#16, 0x2000#16] := by
  have hwords : [0x0100#16, 0x1100#16, 0x2000#16] = [encode .encStart, encode .decStart, encode .abort] := by decide
  intro hmem
  rw [hwords] at hmem
  have hinj {j : Instr} (hj : encode i = encode j) : i = j := by
    have hdecode := congrArg decode hj
    rw [decode_encode, decode_encode] at hdecode
    exact Option.some.inj hdecode
  simp only [List.mem_cons, List.not_mem_nil, or_false] at hmem
  rcases hmem with hi | hi | hi <;> obtain rfl := hinj hi <;> simp at h

/-- The data words of an encode. -/
def encByteWords (x : List Byte) : List Word := x.map fun c => encode (.encByte c)

theorem encodeWords_eq (x : List Byte) :
    encodeWords x = encode .encStart :: (encByteWords x ++ [encode .encEnd]) := rfl

theorem encodeWords_not_start (x : List Byte) :
    ∀ w ∈ encByteWords x ++ [encode .encEnd], w ∉ [0x0100#16, 0x1100#16, 0x2000#16] := by
  intro w hw
  simp only [encByteWords, List.mem_append, List.mem_map, List.mem_singleton] at hw
  rcases hw with ⟨c, -, rfl⟩ | rfl
  · exact encode_not_start (.inl ⟨c, rfl⟩)
  · exact encode_not_start (.inr (.inl rfl))

@[simp] theorem pack_append (ks ls : List Code) : pack (ks ++ ls) = pack ks ++ pack ls := by
  induction ks with
  | nil => rfl
  | cons k ks ih => rw [List.cons_append, pack, pack, ih, List.append_assoc]

/-! ## The stored strings and the core's dictionary -/

/-- The table of a reference function is the core's dictionary: the same number of codes, the same string for each. -/
structure Holds (table : StringTable) (s : State) : Prop where
  size : s.dictSize.toNat = nextCode table
  string : ∀ k : Code, 256 ≤ k.toNat → k.toNat < s.dictSize.toNat → table[k.toNat - 256]? = some (strOf s k)

theorem holds_of_seed {s : State} (h : s.dictSize = 256#17) : Holds [] s where
  size := by rw [h]; rfl
  string k hk hlt := by
    rw [h] at hlt
    exact absurd hlt (Nat.not_lt_of_le hk)

theorem Holds.of_sameDictionary {table : StringTable} {s t : State} (h : Holds table s) (hsame : SameDictionary t s) :
    Holds table t := by
  obtain ⟨hsize, hstring⟩ := h
  exact ⟨hsame.size ▸ hsize, by rw [hsame.strOf, hsame.size]; exact hstring⟩

theorem Holds.full_iff {table : StringTable} {s : State} (h : Holds table s) :
    nextCode table = 65536 ↔ s.dictSize = 65536#17 := by
  rw [← h.size]
  exact ⟨fun hn => BitVec.eq_of_toNat_eq hn, fun hn => by rw [hn]; rfl⟩

/-- `DictInsert` appends the string of its entry. -/
theorem Holds.dictInsert {table : StringTable} {s : State} (h : Holds table s) (hentries : EntriesOk s) {p : Code}
    {c : Byte} (hroom : s.dictSize.toNat < 65536) (hp : p.toNat < s.dictSize.toNat) :
    Holds (table ++ [strOf s p ++ [c]]) (dictInsert p c s) := by
  have hsize := h.size
  have hge := hentries.size_ge
  rw [nextCode] at hsize
  refine ⟨?_, fun k hk hlt => ?_⟩
  · rw [dictInsert_size hroom, nextCode, List.length_append, List.length_singleton]
    omega
  · rcases lt_or_eq_of_lt_dictInsert hroom hlt with hold | rfl
    · rw [strOf_dictInsert_old hentries hold, List.getElem?_append_left (by omega)]
      exact h.string k hk hold
    · have hlast : (BitVec.ofNat 16 s.dictSize.toNat).toNat - 256 = table.length := by
        rw [BitVec.toNat_ofNat]
        omega
      rw [strOf_dictInsert_new hentries hroom hp, hlast, List.getElem?_concat_length]

/-- A string of the dictionary is a key with its own code: a root is a single byte, and no earlier string is equal. -/
theorem Holds.codeOfString_strOf {table : StringTable} {s : State} (h : Holds table s) (hentries : EntriesOk s)
    (hinj : s.StrInjective) {k : Code} (hk : k.toNat < s.dictSize.toNat) :
    codeOfString table (strOf s k) = some k.toNat := by
  rcases Nat.lt_or_ge k.toNat 256 with hroot | hstored
  · rw [strOf_root s hroot, codeOfString_singleton, toNat_codeLow hroot]
  · have hsize := h.size
    have hle := hentries.size_le
    have htwo := hentries.two_le_length hstored hk
    rw [nextCode] at hsize
    obtain ⟨hlt, hself⟩ := List.getElem?_eq_some_iff.1 (h.string k hstored hk)
    have hfind : table.findIdx? (· == strOf s k) = some (k.toNat - 256) := by
      refine List.findIdx?_eq_some_iff_getElem.2 ⟨hlt, beq_iff_eq.2 hself, fun j hj => ?_⟩
      have hnum : (BitVec.ofNat 16 (256 + j)).toNat = 256 + j := hentries.toNat_ofNat (by omega)
      have hother := h.string (BitVec.ofNat 16 (256 + j)) (by omega) (by omega)
      rw [hnum, Nat.add_sub_cancel_left, List.getElem?_eq_getElem (by omega), Option.some.injEq] at hother
      rw [hother, Bool.not_eq_true, beq_eq_false_iff_ne]
      intro hsame
      have hcode := hinj _ _ (by omega) hk hsame
      rw [← hcode, hnum] at hj
      omega
    rw [codeOfString_of_length_ne_one _ (by omega), hfind, Option.map_some, Nat.add_sub_cancel' hstored]

/-- A key is the string of its code. -/
theorem Holds.strOf_of_codeOfString {table : StringTable} {s : State} (h : Holds table s) (hentries : EntriesOk s)
    {w : List Byte} {k : Nat} (hk : codeOfString table w = some k) :
    k < s.dictSize.toNat ∧ strOf s (BitVec.ofNat 16 k) = w := by
  have hlt : k < s.dictSize.toNat := h.size ▸ codeOfString_lt hk
  refine ⟨hlt, ?_⟩
  have hnum := hentries.toNat_ofNat hlt
  rcases codeOfString_some hk with ⟨b, rfl, rfl⟩ | ⟨hge, hget⟩
  · have hroot : BitVec.ofNat 16 b.toNat = rootCode b := BitVec.eq_of_toNat_eq (by rw [hnum, toNat_rootCode])
    rw [hroot, strOf_rootCode]
  · have hstring := h.string (BitVec.ofNat 16 k) (by omega) (by omega)
    rw [hnum, hget] at hstring
    exact (Option.some.inj hstring).symm

/-- The lookup of `wc` in the table is the index's answer for the code of `w` and `c` (R44). -/
theorem Holds.codeOfString_extend {table : StringTable} {s : State} (h : Holds table s) (hdict : s.DictOk)
    (hinj : s.StrInjective) (hw : s.wValid = true) (c : Byte) :
    codeOfString table (strOf s s.wCode ++ [c]) = indexLookup s s.wCode c := by
  have hentries := hdict.entries
  cases hlookup : indexLookup s s.wCode c with
  | some k =>
    obtain ⟨-, hlt, -⟩ := indexLookup_some hlookup
    have hnum := hentries.toNat_ofNat hlt
    rw [← hentries.strOf_of_indexLookup hlookup, h.codeOfString_strOf hentries hinj (by omega), hnum]
  | none =>
    rw [Option.eq_none_iff_forall_ne_some]
    intro k hk
    obtain ⟨hlt, hstr⟩ := h.strOf_of_codeOfString hentries hk
    have hnum := hentries.toNat_ofNat hlt
    obtain ⟨hstored, hentry⟩ := hentries.entry_of_strOf hinj (hdict.wCode_lt hw) (by omega) hstr
    exact indexLookup_none hlookup hstored (by omega) hentry

/-! ## The simulation -/

/-- The core in ENCODE mode stands for the loop's variables after `n` bytes. -/
structure Encodes (m : Compressor) (n : Nat) (s : State) : Prop where
  reached : m.Reached n
  mode : s.mode = .encode
  dict : s.DictOk
  inj : s.StrInjective
  wValid : s.wValid = true ↔ n ≠ 0
  work : s.wValid = true → strOf s s.wCode = m.work
  table : Holds m.table s
  outq : s.outq = pack m.out
  outCount : s.outCount = BitVec.ofNat 32 (2 * m.out.length)
  inCount : s.inCount = BitVec.ofNat 32 n

theorem encodes_start (s : State) : Encodes Compressor.start 0 (freshStart .encode s) where
  reached := Compressor.reached_start
  mode := rfl
  dict := (dictOk_iff _).2 ⟨entriesOk_of_seed rfl, nofun⟩
  inj := strInjective_of_seed rfl
  wValid := by simp
  work := nofun
  table := holds_of_seed rfl
  outq := rfl
  outCount := rfl
  inCount := rfl

section
variable {m : Compressor} {n : Nat} {s : State} (h : Encodes m n s)
include h

/-- The flush appends the code that the core holds for `w`. -/
theorem Encodes.flush_eq (hw : s.wValid = true) : m.flush = m.out ++ [s.wCode] := by
  have hcode := h.table.codeOfString_strOf h.dict.entries h.inj (h.dict.wCode_lt hw)
  rw [h.work hw] at hcode
  rw [Compressor.flush_of_known hcode, ofNat_toNat_self]

/-- A byte that extends `w` to the string of a code moves the core to that code. -/
theorem Encodes.extend {c : Byte} {k : Code} (hk : k.toNat < s.dictSize.toNat) (hstr : strOf s k = m.work ++ [c])
    (hnext : m.next c = some { m with work := m.work ++ [c] }) :
    Encodes { m with work := m.work ++ [c] } (n + 1) (countIn { s with wCode := k, wValid := true }) := by
  have hsame : SameDictionary (countIn { s with wCode := k, wValid := true }) s := ⟨rfl, rfl, rfl⟩
  exact
    { reached := h.reached.next hnext
      mode := h.mode
      dict := hsame.dictOk h.dict.entries fun _ => hk
      inj := h.inj.of_sameDictionary hsame
      wValid := iff_of_true rfl n.succ_ne_zero
      work := fun _ => (congrFun hsame.strOf k).trans hstr
      table := h.table.of_sameDictionary hsame
      outq := h.outq
      outCount := h.outCount
      inCount := by rw [countIn_inCount, BitVec.ofNat_add, ← h.inCount] }

/-- A miss with room moves the core to the root of the byte, its string stored and the code of `w` emitted. -/
theorem Encodes.miss {c : Byte} (hw : s.wValid = true) (hroom : s.dictSize ≠ 65536#17)
    (hmiss : indexLookup s s.wCode c = none)
    (hnext : m.next c = some { table := m.table ++ [m.work ++ [c]], work := [c], out := m.flush }) :
    Encodes { table := m.table ++ [m.work ++ [c]], work := [c], out := m.flush } (n + 1)
      (countIn (encodeMiss c s)) := by
  have hlt := h.dict.entries.size_lt hroom
  have hsame := sameDictionary_encodeMiss c s
  have htake := takeInputByte_miss c hw hmiss hroom
  exact
    { reached := h.reached.next hnext
      mode := h.mode
      dict := htake ▸ dictOk_takeInputByte c h.dict
      inj := htake ▸ strInjective_takeInputByte c h.dict h.inj
      wValid := iff_of_true hw n.succ_ne_zero
      work := fun _ => strOf_rootCode _ c
      table := by
        rw [← h.work hw]
        exact (h.table.dictInsert h.dict.entries hlt (h.dict.wCode_lt hw)).of_sameDictionary hsame
      outq := by
        rw [countIn_outq, encodeMiss_outq, h.outq, h.flush_eq hw, pack_append]
        rfl
      outCount := by
        rw [countIn_outCount, encodeMiss_outCount, h.outCount, h.flush_eq hw, List.length_append, Nat.mul_add,
          BitVec.ofNat_add]
        rfl
      inCount := by rw [countIn_inCount, encodeMiss_inCount, BitVec.ofNat_add, ← h.inCount] }

/-- One byte: the core goes with the loop, or both find the dictionary full (R82, R79). -/
theorem Encodes.step (c : Byte) :
    (∃ m', m.next c = some m' ∧ Encodes m' (n + 1) (takeInputByte c s)) ∨
    (m.next c = none ∧ n ≠ 0 ∧ s.dictSize = 65536#17 ∧
      takeInputByte c s = raiseFault .capacityExceeded (encode (.encByte c)) s) := by
  have hextend (hw : s.wValid = true) : codeOfString m.table (m.work ++ [c]) = indexLookup s s.wCode c := by
    rw [← h.work hw, h.table.codeOfString_extend h.dict h.inj hw]
  rcases takeInputByte_cases c s with ⟨hw, ht⟩ | ⟨hw, k, hk, ht⟩ | ⟨hw, hmiss, hfull, ht⟩ | ⟨hw, hmiss, hroom, ht⟩
  · have hn : n = 0 := by simpa [hw] using h.wValid
    have hwork : m.work = [] := h.reached.work_eq_nil.2 hn
    have hnext : m.next c = some { m with work := m.work ++ [c] } :=
      Compressor.next_of_known (k := c.toNat) (by rw [hwork]; rfl)
    have hroot : (rootCode c).toNat < s.dictSize.toNat := Nat.lt_of_lt_of_le (rootCode_lt c) h.dict.entries.size_ge
    exact .inl ⟨_, hnext, ht ▸ h.extend hroot (by rw [hwork, strOf_rootCode]; rfl) hnext⟩
  · have hnext : m.next c = some { m with work := m.work ++ [c] } :=
      Compressor.next_of_known ((hextend hw).trans hk)
    obtain ⟨-, hlt, -⟩ := indexLookup_some hk
    have hcode : (BitVec.ofNat 16 k).toNat < s.dictSize.toNat := by rwa [h.dict.entries.toNat_ofNat hlt]
    have hstr : strOf s (BitVec.ofNat 16 k) = m.work ++ [c] := by
      rw [h.dict.entries.strOf_of_indexLookup hk, h.work hw]
    have hext := h.extend hcode hstr hnext
    rw [← hw] at hext
    exact .inl ⟨_, hnext, ht ▸ hext⟩
  · exact .inr ⟨Compressor.next_of_full ((hextend hw).trans hmiss) (h.table.full_iff.2 hfull), h.wValid.1 hw, hfull, ht⟩
  · have hnext := Compressor.next_of_new ((hextend hw).trans hmiss) (mt h.table.full_iff.1 hroom)
    exact .inl ⟨_, hnext, ht ▸ h.miss hw hroom hmiss hnext⟩

theorem Encodes.coreNext_encByte (c : Byte) : coreNext (encode (.encByte c)) s = takeInputByte c s :=
  coreNext_of_legal (by simp [legal, h.mode])

/-- Any bytes that the loop takes, by induction on them. -/
theorem Encodes.run {x : List Byte} {m' : Compressor} (hrun : m.run x = some m') :
    Encodes m' (n + x.length) (runNext (encByteWords x) s) := by
  induction x generalizing m n s with
  | nil =>
    cases hrun
    exact h
  | cons c x ih =>
    rw [Compressor.run] at hrun
    rcases h.step c with ⟨m₁, hnext, h₁⟩ | ⟨hnext, -⟩
    · rw [hnext] at hrun
      have hlast := ih h₁ hrun
      rwa [← h.coreNext_encByte c, Nat.add_assoc, Nat.add_comm 1] at hlast
    · simp [hnext] at hrun

/-- The flush emits the code of a non-empty `w`, and the packed codes are complete (R83). -/
theorem Encodes.flushAndClose_outq :
    (flushAndClose s).outq = pack m.finish ∧
      (flushAndClose s).outCount = BitVec.ofNat 32 (2 * m.finish.length) := by
  rcases flushAndClose_cases s with ⟨hw, ht⟩ | ⟨hw, ht⟩ <;> rw [ht]
  · rw [h.reached.finish_flush (h.wValid.1 hw), h.flush_eq hw]
    refine ⟨?_, ?_⟩
    · show s.outq ++ codeBytes s.wCode = _
      rw [h.outq, pack_append]
      rfl
    · show s.outCount + 2#32 = _
      rw [h.outCount, List.length_append, Nat.mul_add, BitVec.ofNat_add]
      rfl
  · have hn : n = 0 := by simpa [hw] using h.wValid
    have hreached := h.reached
    rw [hn] at hreached
    have hout : m.out = [] := by
      have hlength := hreached.out_length
      have htable := hreached.table_length
      exact List.length_eq_zero_iff.1 (by omega)
    rw [hreached.finish_nil]
    exact ⟨by rw [← hout]; exact h.outq, by rw [← hout]; exact h.outCount⟩

end

theorem flushAndClose_of_pending {s : State} (hw : s.wValid = true) :
    flushAndClose s = { emit (codeBytes s.wCode) s with wValid := false, mode := .idle, done := true } := by
  simp [flushAndClose, hw]

theorem flushAndClose_of_empty {s : State} (hw : s.wValid = false) :
    flushAndClose s = { s with wValid := false, mode := .idle, done := true } := by
  simp [flushAndClose, hw]

theorem sameDictionary_flushAndClose (s : State) : SameDictionary (flushAndClose s) s := by
  rcases flushAndClose_cases s with ⟨-, ht⟩ | ⟨-, ht⟩ <;> rw [ht] <;> exact ⟨rfl, rfl, rfl⟩

/-- The registers that `ENC_END` writes in ENCODE mode besides the output, and those it does not write (R83). -/
theorem flushAndClose_registers (s : State) :
    (flushAndClose s).mode = .idle ∧ (flushAndClose s).done = true ∧ (flushAndClose s).wValid = false ∧
    (flushAndClose s).inCount = s.inCount := by
  rcases flushAndClose_cases s with ⟨-, ht⟩ | ⟨-, ht⟩ <;> rw [ht] <;> exact ⟨rfl, rfl, rfl, rfl⟩

/-! ## An encode from any state -/

/-- The state before `ENC_END`, or before the byte that does not fit. -/
def encodingOf (x : List Byte) (s : State) : State := runNext (encByteWords x) (freshStart .encode s)

theorem encodes_encodingOf {x : List Byte} {m : Compressor} (hrun : Compressor.start.run x = some m) (s : State) :
    Encodes m x.length (encodingOf x s) := by
  have h := (encodes_start s).run hrun
  rwa [Nat.zero_add] at h

theorem runWords_encodeWords (x : List Byte) (s : State) :
    runWords (encodeWords x) s =
      .next (runNext (encByteWords x ++ [encode .encEnd]) (freshStart .encode s)) := by
  have hstart : coreNext (encode .encStart) s = freshStart .encode s := coreNext_of_legal rfl
  rw [runWords_eq, encodeWords_eq, runNext_cons, hstart]

/-- Where the loop takes every byte, `ENC_END` closes the operation. -/
theorem runWords_encodeWords_closed {x : List Byte} {m : Compressor} (hrun : Compressor.start.run x = some m)
    (s : State) : runWords (encodeWords x) s = .next (flushAndClose (encodingOf x s)) := by
  have hmode := (encodes_encodingOf hrun s).mode
  rw [runWords_encodeWords, runNext_append, ← encodingOf, runNext_cons, runNext_nil,
    coreNext_of_legal (by simp [legal, hmode]), effectOf]

/-- Where the loop fails at a byte, the core faults there, and FAULT mode drops the rest. -/
theorem runWords_encodeWords_faulted {y z : List Byte} {c : Byte} {m : Compressor}
    (hrun : Compressor.start.run y = some m) (hnext : m.next c = none) (s : State) :
    y.length ≠ 0 ∧ (encodingOf y s).dictSize = 65536#17 ∧
    runWords (encodeWords (y ++ c :: z)) s =
      .next (raiseFault .capacityExceeded (encode (.encByte c)) (encodingOf y s)) := by
  have h := encodes_encodingOf hrun s
  rcases h.step c with ⟨m', hm, -⟩ | ⟨-, hn, hfull, ht⟩
  · simp [hm] at hnext
  · have hwords : encByteWords (y ++ c :: z) ++ [encode .encEnd] =
        encByteWords y ++ encode (.encByte c) :: (encByteWords z ++ [encode .encEnd]) := by
      simp [encByteWords]
    refine ⟨hn, hfull, ?_⟩
    rw [runWords_encodeWords, hwords, runNext_append, ← encodingOf, runNext_cons, h.coreNext_encByte, ht,
      runNext_of_fault rfl (encodeWords_not_start z)]

/-- Settles O53: a simulation by induction over the bytes of the input, closed by the flush; where the loop fails the
core faults, and FAULT mode drops the rest. -/
theorem encodeCommandsComputeCompress : Obligations.EncodeCommandsComputeCompress := by
  unfold Obligations.EncodeCommandsComputeCompress
  intro x s
  refine ⟨fun codes hcodes => ?success, fun i c codes hc hcodes hfail => ?capacity⟩
  case success =>
    obtain ⟨m, hrun, rfl⟩ := compressR_eq_some.1 hcodes
    have h := encodes_encodingOf hrun s
    have hsame := sameDictionary_flushAndClose (encodingOf x s)
    have htable := h.table.of_sameDictionary hsame
    obtain ⟨houtq, houtCount⟩ := h.flushAndClose_outq
    obtain ⟨hmode, hdone, hwValid, hinCount⟩ := flushAndClose_registers (encodingOf x s)
    have hsize : (flushAndClose (encodingOf x s)).dictSize.toNat = 256 + (m.finish.length - 1) := by
      rw [htable.size, nextCode, h.reached.table_length_eq]
    exact ⟨_, runWords_encodeWords_closed hrun s, houtq, hmode, hdone, hinCount.trans h.inCount, houtCount, hwValid,
      hsize, fun k hk hlt => ⟨m, hrun, htable.string k hk hlt⟩⟩
  case capacity =>
    obtain ⟨m, hrun, rfl⟩ := compressR_eq_some.1 hcodes
    obtain ⟨hi, rfl⟩ := List.getElem?_eq_some_iff.1 hc
    have hlength : (x.take i).length = i := List.length_take_of_le (Nat.le_of_lt hi)
    have hsplit : x = x.take i ++ x[i] :: x.drop (i + 1) := by
      rw [← List.drop_eq_getElem_cons hi, List.take_append_drop]
    have hnext : m.next x[i] = none := by
      rw [compressR, ← List.take_append_getElem hi, Compressor.run_append, hrun, Option.bind_some,
        Compressor.run_singleton, Option.map_eq_none_iff] at hfail
      exact hfail
    have h := encodes_encodingOf hrun s
    obtain ⟨hn, hfull, hwords⟩ := runWords_encodeWords_faulted (z := x.drop (i + 1)) hrun hnext s
    rw [← hsplit] at hwords
    have hout : m.out.length = 65280 := by
      have hcap := h.table.full_iff.2 hfull
      rw [nextCode] at hcap
      rw [h.reached.out_length]
      omega
    have hfinish : m.finish = m.out ++ [(encodingOf (x.take i) s).wCode] := by
      rw [h.reached.finish_flush hn, h.flush_eq (h.wValid.2 hn)]
    refine ⟨_, hwords, rfl, rfl, rfl, hfull, ?_, ?_, ?_⟩
    · exact h.inCount.trans (by rw [hlength])
    · rw [hfinish, List.length_append, hout, List.length_singleton]
    · rw [hfinish, ← hout, List.take_left']
      · exact h.outq
      · rfl

end Sys2Proof.Machine
end

section
/-! The decoder's commands compute `decompress_bytes_R` (41_decoder.md R88, R89, R94): the state of the core after
`DEC_START` and any number of packed codes stands for the loop's variables after those codes. -/

namespace Sys2Proof.Machine

open Sys2Proof

/-! ## The loop, its first code included (R88) -/

/-- One code, on the variables before it: none before the first code. -/
def decodeNext : Option Decompressor → Code → Except ErrCode Decompressor
  | none, k => Decompressor.first k
  | some m, k => m.next k

/-- The variables after a list of codes. -/
def decodeFrom : Option Decompressor → List Code → Except ErrCode (Option Decompressor)
  | o, [] => .ok o
  | o, k :: ks =>
    match decodeNext o k with
    | .ok m => decodeFrom (some m) ks
    | .error c => .error c

/-- `D` of the loop: empty before the first code. -/
def tableOf : Option Decompressor → StringTable
  | none => []
  | some m => m.table

/-- `result` of the loop: empty before the first code. -/
def outputOf : Option Decompressor → List Byte
  | none => []
  | some m => m.result

theorem decodeFrom_cons_ok {o : Option Decompressor} {k : Code} {m : Decompressor} (h : decodeNext o k = .ok m)
    (ks : List Code) : decodeFrom o (k :: ks) = decodeFrom (some m) ks := by
  rw [decodeFrom, h]

theorem decodeFrom_cons_error {o : Option Decompressor} {k : Code} {c : ErrCode} (h : decodeNext o k = .error c)
    (ks : List Code) : decodeFrom o (k :: ks) = .error c := by
  rw [decodeFrom, h]

theorem decodeFrom_append_ok {o o' : Option Decompressor} {ks : List Code} (h : decodeFrom o ks = .ok o')
    (ls : List Code) : decodeFrom o (ks ++ ls) = decodeFrom o' ls := by
  induction ks generalizing o with
  | nil =>
    cases h
    rfl
  | cons k ks ih =>
    cases hk : decodeNext o k with
    | error c =>
      rw [decodeFrom_cons_error hk] at h
      cases h
    | ok m =>
      rw [decodeFrom_cons_ok hk] at h
      rw [List.cons_append, decodeFrom_cons_ok hk, ih h]

/-- Steps 3 and 4 of R88 are one loop. -/
theorem decompressR_eq (ks : List Code) : decompressR ks = (decodeFrom none ks).map outputOf := by
  have hrun (m : Decompressor) (ls : List Code) :
      (decodeFrom (some m) ls).map outputOf = (m.run ls).map Decompressor.result := by
    induction ls generalizing m with
    | nil => rfl
    | cons k ls ih =>
      rw [Decompressor.run, decodeFrom, decodeNext]
      cases m.next k with
      | ok m' => exact ih m'
      | error c => rfl
  cases ks with
  | nil => rfl
  | cons k ks =>
    rw [decompressR, Decompressor.runAll, decodeFrom, decodeNext]
    cases Decompressor.first k with
    | error c => rfl
    | ok m =>
      rw [hrun]
      cases hm : m.run ks <;> simp only [hm] <;> rfl

theorem decompressR_ok {ks : List Code} {r : List Byte} :
    decompressR ks = .ok r ↔ ∃ o, decodeFrom none ks = .ok o ∧ outputOf o = r := by
  rw [decompressR_eq]
  cases decodeFrom none ks <;> simp [Except.map]

theorem decompressR_error {ks : List Code} {c : ErrCode} :
    decompressR ks = .error c ↔ decodeFrom none ks = .error c := by
  rw [decompressR_eq]
  cases decodeFrom none ks <;> simp [Except.map]

/-! ## Packed buffers (R71, R80) -/

theorem codeBytes_assembleCode (high low : Byte) : codeBytes (assembleCode high low) = [low, high] := by
  rw [assembleCode_eq_append]
  have hlow : codeLow (high ++ low) = low := opdField_append high low
  have hhigh : codeHigh (high ++ low) = high := opcField_append high low
  rw [codeBytes, hlow, hhigh]

/-- A buffer is its packed codes and, where its length is odd, a stray last byte. -/
theorem exists_stray (p : List Byte) : ∃ stray, p = pack (unpack p) ++ stray ∧ stray.length = p.length % 2 := by
  match p with
  | [] => exact ⟨[], rfl, rfl⟩
  | [b] => exact ⟨[b], rfl, rfl⟩
  | low :: high :: rest =>
    obtain ⟨stray, hrest, hlength⟩ := exists_stray rest
    refine ⟨stray, ?_, by rw [hlength, List.length_cons, List.length_cons]; omega⟩
    rw [unpack, pack, codeBytes_assembleCode, List.append_assoc, ← hrest]
    rfl

theorem length_unpack (p : List Byte) : (unpack p).length = p.length / 2 := by
  obtain ⟨stray, hp, hstray⟩ := exists_stray p
  have hlength := congrArg List.length hp
  rw [List.length_append, length_pack] at hlength
  omega

/-! ## A later code (R88 step 4) -/

section
variable {m : Decompressor} {k : Code} {entry : List Byte}

theorem Decompressor.next_of_beyond (h : m.entryFor k = none) : m.next k = .error .corruptData := by
  simp [next, h]

theorem Decompressor.next_of_full (h : m.entryFor k = some entry) (hfull : nextCode m.table = 65536) :
    m.next k = .error .capacityExceeded := by
  simp [next, h, hfull]

theorem Decompressor.next_of_entry (h : m.entryFor k = some entry) (hroom : nextCode m.table ≠ 65536) :
    m.next k =
      .ok { table := m.table ++ [m.work ++ entry.take 1], work := entry, result := m.result ++ entry } := by
  simp [next, h, hroom]

end

/-! ## One code on the core -/

theorem Holds.stringOfCode {table : StringTable} {s : State} (h : Holds table s) {k : Code}
    (hk : k.toNat < s.dictSize.toNat) : stringOfCode table k.toNat = some (strOf s k) := by
  rw [Machine.stringOfCode]
  split
  · next hroot =>
    rw [strOf_root s hroot, ← toNat_codeLow hroot, ofNat_toNat_self]
  · next hstored => exact h.string k (Nat.le_of_not_lt hstored) hk

/-- The core's dictionary, `w` and output stand for the loop's variables. -/
structure DecodesTo (o : Option Decompressor) (s : State) : Prop where
  mode : s.mode = .decode
  dict : s.DictOk
  wValid : s.wValid = o.isSome
  work : ∀ m, o = some m → strOf s s.wCode = m.work
  table : Holds (tableOf o) s
  outq : s.outq = outputOf o
  outCount : s.outCount = BitVec.ofNat 32 (outputOf o).length

/-- The relation reads the dictionary and six registers. -/
theorem DecodesTo.congr {o : Option Decompressor} {s t : State} (h : DecodesTo o s) (hsame : SameDictionary t s)
    (hmode : t.mode = s.mode) (hwValid : t.wValid = s.wValid) (hwCode : t.wCode = s.wCode) (houtq : t.outq = s.outq)
    (houtCount : t.outCount = s.outCount) : DecodesTo o t where
  mode := hmode.trans h.mode
  dict := hsame.dictOk h.dict.entries fun hw => hwCode ▸ h.dict.wCode_lt (hwValid ▸ hw)
  wValid := hwValid.trans h.wValid
  work := by rw [hsame.strOf, hwCode]; exact h.work
  table := h.table.of_sameDictionary hsame
  outq := houtq.trans h.outq
  outCount := houtCount.trans h.outCount

/-- A first code: the root's byte, or CORRUPT_DATA (R88 step 3, R92). -/
theorem DecodesTo.first {s : State} (h : DecodesTo none s) (k : Code) :
    (∃ m, Decompressor.first k = .ok m ∧ codeFault k s = none ∧ DecodesTo (some m) (decodeCode k s)) ∨
    (Decompressor.first k = .error .corruptData ∧ codeFault k s = some .corruptData) := by
  have hw : s.wValid = false := h.wValid
  rcases Nat.lt_or_ge k.toNat 256 with hroot | hstored
  · have hf : codeFault k s = none := codeFault_none.2 (.inl ⟨hw, hroot⟩)
    have hsame : SameDictionary (decodeCode k s) s := by
      rw [decodeCode_first hw]
      exact ⟨rfl, rfl, rfl⟩
    obtain ⟨hmode, -⟩ := decodeCode_frame k s
    refine .inl ⟨_, if_neg (Nat.not_le_of_lt hroot), hf, ?_⟩
    exact
      { mode := hmode.trans h.mode
        dict := dictOk_decodeCode h.dict hf
        wValid := decodeCode_wValid k s
        work := by
          intro m hm
          cases hm
          rw [hsame.strOf, decodeCode_wCode, strOf_root s hroot]
        table := h.table.of_sameDictionary hsame
        outq := by
          rw [decodeCode_first hw]
          show s.outq ++ [codeLow k] = _
          rw [h.outq]
          rfl
        outCount := by
          rw [decodeCode_first hw]
          show s.outCount + BitVec.ofNat 32 [codeLow k].length = _
          rw [h.outCount]
          rfl }
  · exact .inr ⟨if_pos hstored, codeFault_first_stored hw hstored⟩

section
variable {m : Decompressor} {s : State} (h : DecodesTo (some m) s)
include h

/-- The loop's entry is what the core emits: a known string, or `w ++ [w[0]]` (R88, R92). -/
theorem DecodesTo.entryFor {k : Code} (hk : k.toNat ≤ s.dictSize.toNat) :
    m.entryFor k = some (decodedEntry k s) := by
  have hsize : s.dictSize.toNat = nextCode m.table := h.table.size
  rw [Decompressor.entryFor, decodedEntry, ← hsize]
  split
  · next hold => exact h.table.stringOfCode hold
  · next hnew =>
    obtain ⟨rest, hhead⟩ := List.head?_eq_some_iff.1 (h.dict.entries.strOf_head (h.dict.wCode_lt h.wValid))
    rw [if_pos (Nat.le_antisymm hk (Nat.le_of_not_lt hnew)), ← h.work m rfl, hhead]
    rfl

theorem DecodesTo.entryFor_beyond {k : Code} (hk : s.dictSize.toNat < k.toNat) : m.entryFor k = none := by
  have hsize : s.dictSize.toNat = nextCode m.table := h.table.size
  rw [Decompressor.entryFor, ← hsize, if_neg (by omega), if_neg (by omega)]

/-- A later code: its entry, or the same fault on both sides (R88 step 4, R92). -/
theorem DecodesTo.next (k : Code) :
    (∃ m', m.next k = .ok m' ∧ codeFault k s = none ∧ DecodesTo (some m') (decodeCode k s)) ∨
    (∃ c, m.next k = .error c ∧ codeFault k s = some c) := by
  have hw : s.wValid = true := h.wValid
  rcases Nat.lt_or_ge s.dictSize.toNat k.toNat with hbeyond | hk
  · exact .inr ⟨.corruptData, Decompressor.next_of_beyond (h.entryFor_beyond hbeyond),
      codeFault_later_beyond hw hbeyond⟩
  by_cases hfull : s.dictSize = 65536#17
  · exact .inr ⟨.capacityExceeded, Decompressor.next_of_full (h.entryFor hk) (h.table.full_iff.2 hfull),
      codeFault_later_full hw hk hfull⟩
  · have hf : codeFault k s = none := codeFault_none.2 (.inr ⟨hw, hk, hfull⟩)
    have hsame := sameDictionary_decodeCode k hw
    have hhead : (decodedEntry k s).take 1 = [decodedFirst k s] := by
      obtain ⟨rest, hentry⟩ := List.head?_eq_some_iff.1 (decodedEntry_head (k := k) h.dict hw)
      rw [hentry]
      rfl
    obtain ⟨hmode, -⟩ := decodeCode_frame k s
    refine .inl ⟨_, Decompressor.next_of_entry (h.entryFor hk) (mt h.table.full_iff.1 hfull), hf, ?_⟩
    exact
      { mode := hmode.trans h.mode
        dict := dictOk_decodeCode h.dict hf
        wValid := decodeCode_wValid k s
        work := by
          intro m' hm'
          cases hm'
          rw [decodeCode_wCode]
          exact strOf_decodeCode_code h.dict hw hfull hk
        table := by
          rw [tableOf, hhead, ← h.work m rfl]
          exact (h.table.dictInsert h.dict.entries (h.dict.entries.size_lt hfull)
            (h.dict.wCode_lt hw)).of_sameDictionary hsame
        outq := by
          rw [decodeCode_later hw]
          show s.outq ++ decodedEntry k s = _
          rw [h.outq]
          rfl
        outCount := by
          rw [decodeCode_later hw]
          show s.outCount + BitVec.ofNat 32 (decodedEntry k s).length = _
          rw [h.outCount, ← BitVec.ofNat_add, ← List.length_append]
          rfl }

end

/-- One code: the core goes with the loop, or raises the fault that the loop fails with. -/
theorem DecodesTo.decodeNext {o : Option Decompressor} {s : State} (h : DecodesTo o s) (k : Code) :
    (∃ m, decodeNext o k = .ok m ∧ codeFault k s = none ∧ DecodesTo (some m) (decodeCode k s)) ∨
    (∃ c, decodeNext o k = .error c ∧ codeFault k s = some c) := by
  cases o with
  | none =>
    rcases h.first k with hok | herror
    · exact .inl hok
    · exact .inr ⟨_, herror⟩
  | some m => exact h.next k

/-! ## The bytes of a code -/

/-- The core between two codes, after `n` of them. -/
structure Decodes (o : Option Decompressor) (n : Nat) (s : State) : Prop extends DecodesTo o s where
  started : o.isSome = true ↔ n ≠ 0
  halfValid : s.halfValid = false
  size : s.dictSize.toNat = 256 + (n - 1)
  inCount : s.inCount = BitVec.ofNat 32 (2 * n)

theorem decodes_start (s : State) : Decodes none 0 (freshStart .decode s) where
  mode := rfl
  dict := (dictOk_iff _).2 ⟨entriesOk_of_seed rfl, nofun⟩
  wValid := rfl
  work := nofun
  table := holds_of_seed rfl
  outq := rfl
  outCount := rfl
  started := by simp
  halfValid := rfl
  size := rfl
  inCount := rfl

/-- The core with the low byte of a code held (R91). -/
def holdByte (low : Byte) (s : State) : State := countIn { s with halfByte := low, halfValid := true }

/-- The data words of a decode. -/
def decByteWords (p : List Byte) : List Word := p.map fun b => encode (.decByte b)

theorem decByteWords_append (p q : List Byte) : decByteWords (p ++ q) = decByteWords p ++ decByteWords q :=
  List.map_append

theorem takePackedByte_low {b : Byte} {s : State} (hh : s.halfValid = false) : takePackedByte b s = holdByte b s := by
  simp [takePackedByte, hh, holdByte]

theorem coreNext_decByte {b : Byte} {s : State} (hm : s.mode = .decode) :
    coreNext (encode (.decByte b)) s = takePackedByte b s :=
  coreNext_of_legal (by simp [legal, hm])

section
variable {o : Option Decompressor} {n : Nat} {s : State} (h : Decodes o n s)
include h

theorem Decodes.hold (low : Byte) :
    coreNext (encode (.decByte low)) s = holdByte low s ∧ DecodesTo o (holdByte low s) := by
  refine ⟨?_, h.toDecodesTo.congr ⟨rfl, rfl, rfl⟩ rfl rfl rfl rfl rfl⟩
  rw [coreNext_decByte h.mode, takePackedByte_low h.halfValid]

theorem Decodes.hold_inCount (low : Byte) : (holdByte low s).inCount = BitVec.ofNat 32 (2 * n + 1) := by
  show s.inCount + 1#32 = _
  rw [h.inCount, BitVec.ofNat_add]

theorem Decodes.hold_size (low : Byte) :
    (holdByte low s).dictSize.toNat + (holdByte low s).wValid.toNat = 256 + (n + 1 - 1) := by
  have hsize := h.size
  have hstarted := h.started
  show s.dictSize.toNat + s.wValid.toNat = _
  rw [← h.wValid] at hstarted
  cases hw : s.wValid with
  | false =>
    have hn : n = 0 := by simpa [hw] using hstarted
    rw [Bool.toNat_false]
    omega
  | true =>
    have hn := hstarted.1 hw
    rw [Bool.toNat_true]
    omega

/-- Two bytes: the core goes with the loop, or faults at the second one. -/
theorem Decodes.step (k : Code) :
    (∃ m, decodeNext o k = .ok m ∧
      Decodes (some m) (n + 1) (runNext (decByteWords (codeBytes k)) s)) ∨
    (∃ c, decodeNext o k = .error c ∧
      runNext (decByteWords (codeBytes k)) s =
        raiseFault c (encode (.decByte (codeHigh k))) (holdByte (codeLow k) s)) := by
  obtain ⟨hlow, hheld⟩ := h.hold (codeLow k)
  have hbytes : runNext (decByteWords (codeBytes k)) s =
      takePackedByte (codeHigh k) (holdByte (codeLow k) s) := by
    rw [← coreNext_decByte hheld.mode, ← hlow]
    rfl
  have hcode : assembleCode (codeHigh k) (holdByte (codeLow k) s).halfByte = k := assembleCode_codeHigh_codeLow k
  have hcases := takePackedByte_cases (codeHigh k) (holdByte (codeLow k) s)
  rw [hcode] at hcases
  rw [hbytes]
  rcases hheld.decodeNext k with ⟨m, hm, hf, hdecoded⟩ | ⟨c, hc, hf⟩ <;>
    rcases hcases with ⟨hnone, -⟩ | ⟨-, cause, hcause, ht⟩ | ⟨-, hf', ht⟩
  · cases hnone
  · rw [hf] at hcause
    cases hcause
  · obtain ⟨-, -, -, -, -, hin, -⟩ := decodeCode_frame k (holdByte (codeLow k) s)
    refine .inl ⟨m, hm, ?_⟩
    rw [ht]
    exact
      { toDecodesTo := hdecoded.congr ⟨rfl, rfl, rfl⟩ rfl rfl rfl rfl rfl
        started := iff_of_true rfl n.succ_ne_zero
        halfValid := rfl
        size := (decodeCode_size_eq hheld.dict hf).trans (h.hold_size (codeLow k))
        inCount := by
          show (decodeCode k (holdByte (codeLow k) s)).inCount + 1#32 = _
          have hcount : 2 * n + 1 + 1 = 2 * (n + 1) := by omega
          rw [hin, h.hold_inCount, ← BitVec.ofNat_add, hcount] }
  · cases hnone
  · rw [hf] at hcause
    cases hcause
    exact .inr ⟨_, hc, ht⟩
  · rw [hf] at hf'
    cases hf'

/-- Any codes that the loop takes, by induction on them. -/
theorem Decodes.run {ks : List Code} {o' : Option Decompressor} (hrun : decodeFrom o ks = .ok o') :
    Decodes o' (n + ks.length) (runNext (decByteWords (pack ks)) s) := by
  induction ks generalizing o n s with
  | nil =>
    cases hrun
    exact h
  | cons k ks ih =>
    rw [pack, decByteWords_append, runNext_append]
    rcases h.step k with ⟨m, hm, hstep⟩ | ⟨c, hc, -⟩
    · rw [decodeFrom_cons_ok hm] at hrun
      have hlast := ih hstep hrun
      rwa [Nat.add_assoc, Nat.add_comm 1] at hlast
    · rw [decodeFrom_cons_error hc] at hrun
      cases hrun

end

/-! ## A decode from any state -/

theorem decodeWords_eq (p : List Byte) :
    decodeWords p = encode .decStart :: (decByteWords p ++ [encode .decEnd]) := rfl

theorem decodeWords_not_start (p : List Byte) :
    ∀ w ∈ decByteWords p ++ [encode .decEnd], w ∉ [0x0100#16, 0x1100#16, 0x2000#16] := by
  intro w hw
  simp only [decByteWords, List.mem_append, List.mem_map, List.mem_singleton] at hw
  rcases hw with ⟨b, -, rfl⟩ | rfl
  · exact encode_not_start (.inr (.inr (.inl ⟨b, rfl⟩)))
  · exact encode_not_start (.inr (.inr (.inr rfl)))

/-- The state after `DEC_START` and the bytes of some codes. -/
def decodingOf (ks : List Code) (s : State) : State := runNext (decByteWords (pack ks)) (freshStart .decode s)

theorem decodes_decodingOf {ks : List Code} {o : Option Decompressor} (hrun : decodeFrom none ks = .ok o) (s : State) :
    Decodes o ks.length (decodingOf ks s) := by
  have h := (decodes_start s).run hrun
  rwa [Nat.zero_add] at h

/-- The words of a decode whose buffer begins with the codes `ks`. -/
theorem runWords_decodeWords (ks : List Code) (rest : List Byte) (s : State) :
    runWords (decodeWords (pack ks ++ rest)) s =
      .next (runNext (decByteWords rest ++ [encode .decEnd]) (decodingOf ks s)) := by
  have hstart : coreNext (encode .decStart) s = freshStart .decode s := coreNext_of_legal rfl
  rw [runWords_eq, decodeWords_eq, runNext_cons, hstart, decByteWords_append, List.append_assoc, runNext_append,
    ← decodingOf]

theorem coreNext_decEnd {s : State} (hm : s.mode = .decode) : coreNext (encode .decEnd) s = closeDecode s :=
  coreNext_of_legal (by simp [legal, hm])

/-- Whole codes that the loop takes: `DEC_END` closes the operation. -/
theorem runWords_decodeWords_closed {ks : List Code} {o : Option Decompressor} (hrun : decodeFrom none ks = .ok o)
    (s : State) :
    runWords (decodeWords (pack ks)) s =
      .next { decodingOf ks s with wValid := false, mode := .idle, done := true } := by
  have h := decodes_decodingOf hrun s
  have hwords := runWords_decodeWords ks [] s
  rw [List.append_nil] at hwords
  rw [hwords]
  show Host.Outcome.next (coreNext (encode .decEnd) (decodingOf ks s)) = _
  rw [coreNext_decEnd h.mode, closeDecode_of_whole h.halfValid]

/-- A stray last byte is held, and `DEC_END` faults. -/
theorem runWords_decodeWords_odd {ks : List Code} {o : Option Decompressor} (hrun : decodeFrom none ks = .ok o)
    (b : Byte) (s : State) :
    runWords (decodeWords (pack ks ++ [b])) s =
      .next (raiseFault .malformedInput (encode .decEnd) (holdByte b (decodingOf ks s))) := by
  obtain ⟨hb, hheld⟩ := (decodes_decodingOf hrun s).hold b
  rw [runWords_decodeWords]
  show Host.Outcome.next (coreNext (encode .decEnd) (coreNext (encode (.decByte b)) (decodingOf ks s))) = _
  rw [hb, coreNext_decEnd hheld.mode, closeDecode_of_half rfl]
  rfl

/-- Where the loop fails at a code, the core faults at its high byte, and FAULT mode drops the rest. -/
theorem runWords_decodeWords_faulted {ks : List Code} {o : Option Decompressor} {k : Code} {c : ErrCode}
    (hrun : decodeFrom none ks = .ok o) (hnext : decodeNext o k = .error c) (rest : List Byte) (s : State) :
    runWords (decodeWords (pack ks ++ (codeBytes k ++ rest))) s =
      .next (raiseFault c (encode (.decByte (codeHigh k))) (holdByte (codeLow k) (decodingOf ks s))) := by
  have h := decodes_decodingOf hrun s
  rw [runWords_decodeWords, decByteWords_append, List.append_assoc, runNext_append]
  rcases h.step k with ⟨m, hm, -⟩ | ⟨c', hc, ht⟩
  · rw [hnext] at hm
    cases hm
  · rw [hnext] at hc
    cases hc
    rw [ht, runNext_of_fault rfl (decodeWords_not_start rest)]

/-! ## The results of `decompress_bytes_R` (R89) -/

theorem decompressBytesR_ok {p r : List Byte} :
    decompressBytesR p = .ok r ↔ decompressR (unpack p) = .ok r ∧ p.length % 2 = 0 := by
  rw [decompressBytesR]
  cases decompressR (unpack p) with
  | error c => simp
  | ok r' =>
    rcases Nat.mod_two_eq_zero_or_one p.length with hp | hp <;> simp [hp]

theorem decompressBytesR_error {p : List Byte} {c : ErrCode} (h : decompressR (unpack p) = .error c) :
    decompressBytesR p = .error c := by
  rw [decompressBytesR, h]

theorem Decompressor.next_ne_malformed (m : Decompressor) (k : Code) : m.next k ≠ .error .malformedInput := by
  cases hentry : m.entryFor k with
  | none => simp [next_of_beyond hentry]
  | some entry =>
    by_cases hfull : nextCode m.table = 65536
    · simp [next_of_full hentry hfull]
    · simp [next_of_entry hentry hfull]

/-- The codes alone never make an input malformed. -/
theorem decodeFrom_ne_malformed (o : Option Decompressor) (ks : List Code) :
    decodeFrom o ks ≠ .error .malformedInput := by
  induction ks generalizing o with
  | nil => nofun
  | cons k ks ih =>
    cases hk : decodeNext o k with
    | ok m =>
      rw [decodeFrom_cons_ok hk]
      exact ih (some m)
    | error c =>
      rw [decodeFrom_cons_error hk]
      rintro h
      cases h
      cases o with
      | none =>
        rw [decodeNext, Decompressor.first] at hk
        split at hk <;> cases hk
      | some m => exact m.next_ne_malformed k hk

theorem decompressBytesR_malformed {p : List Byte} (h : decompressBytesR p = .error .malformedInput) :
    (∃ r, decompressR (unpack p) = .ok r) ∧ p.length % 2 = 1 := by
  rw [decompressBytesR] at h
  cases hr : decompressR (unpack p) with
  | error c =>
    rw [hr] at h
    cases h
    exact absurd (decompressR_error.1 hr) (decodeFrom_ne_malformed none _)
  | ok r =>
    rw [hr] at h
    refine ⟨⟨r, rfl⟩, ?_⟩
    replace h : (if p.length % 2 = 1 then .error .malformedInput else .ok r) = Except.error ErrCode.malformedInput := h
    split at h
    · next hodd => exact hodd
    · cases h

/-- Settles O55: a simulation by induction over the packed codes, closed by `DEC_END`, which faults on a held byte. -/
theorem decodeCommandsComputeDecompress : Obligations.DecodeCommandsComputeDecompress := by
  unfold Obligations.DecodeCommandsComputeDecompress
  intro p s
  obtain ⟨stray, hp, hstray⟩ := exists_stray p
  have hlength := length_unpack p
  refine ⟨fun r hr => ?success, fun hmalformed => ?malformed⟩
  case success =>
    obtain ⟨hr, heven⟩ := decompressBytesR_ok.1 hr
    obtain ⟨o, hrun, rfl⟩ := decompressR_ok.1 hr
    obtain rfl : stray = [] := List.length_eq_zero_iff.1 (hstray.trans heven)
    rw [List.append_nil] at hp
    have h := decodes_decodingOf hrun s
    have hwords := runWords_decodeWords_closed hrun s
    rw [← hp] at hwords
    have htaken : 2 * (unpack p).length = p.length := by omega
    exact ⟨_, hwords, h.outq, rfl, rfl, h.size, htaken ▸ h.inCount, h.outCount⟩
  case malformed =>
    obtain ⟨⟨r, hr⟩, hodd⟩ := decompressBytesR_malformed hmalformed
    obtain ⟨o, hrun, rfl⟩ := decompressR_ok.1 hr
    obtain ⟨b, rfl⟩ := List.length_eq_one_iff.1 (hstray.trans hodd)
    have h := decodes_decodingOf hrun s
    have hwords := runWords_decodeWords_odd hrun b s
    rw [← hp] at hwords
    have htaken : 2 * (unpack p).length + 1 = p.length := by omega
    exact ⟨_, _, hwords, rfl, rfl, encode_decEnd, htaken ▸ h.hold_inCount b, hr, h.outq⟩

/-- The two bytes of index `2i` and `2i + 1` of a buffer are those of its code of index `i`. -/
theorem unpack_split {p : List Byte} {i : Nat} {low high : Byte} (hlow : p[2 * i]? = some low)
    (hhigh : p[2 * i + 1]? = some high) :
    ∃ k later rest, codeLow k = low ∧ codeHigh k = high ∧ unpack p = (unpack p).take i ++ k :: later ∧
      (unpack p).take (i + 1) = (unpack p).take i ++ [k] ∧
      p = pack ((unpack p).take i) ++ (codeBytes k ++ rest) := by
  obtain ⟨stray, hp, -⟩ := exists_stray p
  obtain ⟨hlt, -⟩ := List.getElem?_eq_some_iff.1 hhigh
  have hlength := length_unpack p
  have hi : i < (unpack p).length := by omega
  have hnext := List.take_append_getElem hi
  have hsplit : unpack p = (unpack p).take i ++ (unpack p)[i] :: (unpack p).drop (i + 1) := by
    rw [← List.drop_eq_getElem_cons hi, List.take_append_drop]
  generalize (unpack p)[i] = k at hnext hsplit
  have hbefore : (pack ((unpack p).take i)).length = 2 * i := by
    rw [length_pack, List.length_take_of_le (Nat.le_of_lt hi)]
  have hbytes : p = pack ((unpack p).take i) ++ (codeBytes k ++ (pack ((unpack p).drop (i + 1)) ++ stray)) := by
    calc p = pack (unpack p) ++ stray := hp
      _ = pack ((unpack p).take i ++ k :: (unpack p).drop (i + 1)) ++ stray := by rw [← hsplit]
      _ = _ := by simp [pack]
  rw [hbytes, List.getElem?_append_right (by omega), hbefore, Nat.sub_self] at hlow
  rw [hbytes, List.getElem?_append_right (by omega), hbefore, Nat.add_sub_cancel_left] at hhigh
  exact ⟨k, _, _, Option.some.inj hlow, Option.some.inj hhigh, hsplit, hnext.symm, hbytes⟩

/-- Settles O56: a simulation by induction over the codes before the bad one, which faults on both sides. -/
theorem decodeFaultsAtTheBadCode : Obligations.DecodeFaultsAtTheBadCode := by
  unfold Obligations.DecodeFaultsAtTheBadCode
  intro p s i low high r cause hlow hhigh hgood hbad
  obtain ⟨hlt, -⟩ := List.getElem?_eq_some_iff.1 hhigh
  have hi : i ≤ (unpack p).length := by
    have hlength := length_unpack p
    omega
  obtain ⟨k, later, rest, rfl, rfl, hcodes, hnext, hbytes⟩ := unpack_split hlow hhigh
  obtain ⟨o, hrun, rfl⟩ := decompressR_ok.1 hgood
  have hfail : decodeNext o k = .error cause := by
    rw [hnext, decompressR_error, decodeFrom_append_ok hrun] at hbad
    cases hk : decodeNext o k with
    | ok m =>
      rw [decodeFrom_cons_ok hk] at hbad
      cases hbad
    | error c =>
      rw [decodeFrom_cons_error hk] at hbad
      rw [Except.error.inj hbad]
  refine ⟨decompressBytesR_error (decompressR_error.2 ?_), ?_⟩
  · rw [hcodes, decodeFrom_append_ok hrun, decodeFrom_cons_error hfail]
  · have h := decodes_decodingOf hrun s
    have hwords := runWords_decodeWords_faulted hrun hfail rest s
    rw [← hbytes] at hwords
    have htaken := h.hold_inCount (codeLow k)
    rw [List.length_take_of_le hi] at htaken
    exact ⟨_, hwords, rfl, rfl, encode_decByte _, rfl, rfl, htaken, h.outq⟩

end Sys2Proof.Machine
end

section
/-! The round trip (41_decoder.md R95): the decoder's loop follows the encoder's one string behind, and decodes every
code the encoder emits to the `w` it was emitted for. -/

namespace Sys2Proof.Machine

open Sys2Proof

/-- What the decoder has made of the codes emitted so far, where `x` are the bytes that the encoder has taken: nothing
before the first code; after it all bytes but those of `w`, and all strings but the last, which is the decoder's `w`
and the first byte of what comes next. -/
def Follows (x : List Byte) (m : Compressor) : Prop :=
  (m.out = [] ∧ m.table = [] ∧ m.work = x) ∨
  ∃ d, decodeFrom none m.out = .ok (some d) ∧ d.result ++ m.work = x ∧ d.work ≠ [] ∧ m.work ≠ [] ∧
    m.table = d.table ++ [d.work ++ m.work.take 1]

section
variable {x : List Byte} {m : Compressor} {n : Nat}

/-- Before the first code, `w` is a single byte, whose code is a root. -/
theorem decodeFrom_first_code {k : Nat} (hk : codeOfString [] m.work = some k) :
    decodeFrom none [BitVec.ofNat 16 k] = .ok (some { table := [], work := m.work, result := m.work }) := by
  rcases codeOfString_some hk with ⟨b, hw, rfl⟩ | ⟨-, hget⟩
  · have hroot : BitVec.ofNat 16 b.toNat = rootCode b := by
      apply BitVec.eq_of_toNat_eq
      rw [toNat_rootCode, BitVec.toNat_ofNat]
      omega
    have hfirst : decodeNext none (rootCode b) = .ok { table := [], work := [b], result := [b] } := by
      rw [decodeNext, Decompressor.first, if_neg (Nat.not_le_of_lt (rootCode_lt b)), codeLow_rootCode]
    rw [hroot, hw, decodeFrom_cons_ok hfirst, decodeFrom]
  · simp at hget

/-- A code that the encoder finds in its table is known to the decoder, or is the one it is about to assign, and then
its string is the decoder's `w` with its own first byte. -/
theorem entryFor_of_codeOfString {d : Decompressor} (hd : d.work ≠ []) {w : List Byte} {k : Nat}
    (hk : codeOfString (d.table ++ [d.work ++ w.take 1]) w = some k) (hroom : k < 65536) :
    d.entryFor (BitVec.ofNat 16 k) = some w := by
  have hnum : (BitVec.ofNat 16 k).toNat = k := by
    rw [BitVec.toNat_ofNat]
    omega
  rw [Decompressor.entryFor, hnum, nextCode]
  rcases codeOfString_some hk with ⟨b, rfl, rfl⟩ | ⟨hstored, hget⟩
  · have hb := b.isLt
    rw [if_pos (by omega), stringOfCode, if_pos hb, ofNat_toNat_self]
  · rcases Nat.lt_trichotomy k (256 + d.table.length) with hold | hlast | hbeyond
    · rw [List.getElem?_append_left (by omega)] at hget
      rw [if_pos hold, stringOfCode, if_neg (by omega), hget]
    · have hw : d.work ++ w.take 1 = w := by
        rw [hlast, Nat.add_sub_cancel_left, List.getElem?_concat_length] at hget
        exact Option.some.inj hget
      have hhead : d.work.take 1 = w.take 1 := by
        obtain ⟨b, rest, hb⟩ := List.exists_cons_of_ne_nil hd
        rw [← hw, hb]
        rfl
      rw [if_neg (by omega), if_pos hlast, hhead, hw]
    · rw [List.getElem?_eq_none (by rw [List.length_append, List.length_singleton]; omega)] at hget
      cases hget

/-- The code of `w`: the decoder catches up with the table and the bytes. -/
theorem Follows.flush (h : Follows x m) (hreached : m.Reached n) (hn : n ≠ 0) :
    ∃ d, decodeFrom none m.flush = .ok (some d) ∧ d.result = x ∧ d.work = m.work ∧ d.table = m.table := by
  obtain ⟨k, hk⟩ := hreached.known hn
  rw [Compressor.flush_of_known hk]
  rcases h with ⟨hout, htable, rfl⟩ | ⟨d, hrun, rfl, hd, -, htable⟩
  · rw [htable] at hk
    exact ⟨_, by rw [hout]; exact decodeFrom_first_code hk, rfl, rfl, htable.symm⟩
  · have hroom := hreached.room
    have hlt := codeOfString_lt hk
    have hlength := congrArg List.length htable
    rw [htable] at hk
    rw [List.length_append, List.length_singleton] at hlength
    rw [nextCode] at hroom hlt
    have hentry := entryFor_of_codeOfString hd hk (by omega)
    have hnext : decodeNext (some d) (BitVec.ofNat 16 k) = _ :=
      Decompressor.next_of_entry hentry (by rw [nextCode]; omega)
    exact ⟨_, by rw [decodeFrom_append_ok hrun, decodeFrom_cons_ok hnext, decodeFrom], rfl, rfl, htable.symm⟩

theorem Follows.next {m' : Compressor} (h : Follows x m) (hreached : m.Reached n) {c : Byte}
    (hnext : m.next c = some m') : Follows (x ++ [c]) m' := by
  rcases m.next_cases c with ⟨-, hm⟩ | ⟨-, -, hm⟩ | ⟨hnew, -, hm⟩ <;> rw [hm] at hnext <;> cases hnext
  · rcases h with ⟨hout, htable, rfl⟩ | ⟨d, hrun, rfl, hd, hwork, htable⟩
    · exact .inl ⟨hout, htable, rfl⟩
    · have hfirst : (m.work ++ [c]).take 1 = m.work.take 1 := by
        rw [List.take_append_of_le_length (List.length_pos_iff.2 hwork)]
      exact .inr ⟨d, hrun, (List.append_assoc _ _ _).symm, hd, by simp, by rw [hfirst]; exact htable⟩
  · have hn := hreached.ne_zero_of_new hnew
    obtain ⟨d, hrun, hresult, hwork, htable⟩ := h.flush hreached hn
    have hne : m.work ≠ [] := fun hnil => hn (hreached.work_eq_nil.1 hnil)
    exact .inr ⟨d, hrun, by rw [hresult], hwork ▸ hne, by simp, by rw [hwork, htable]; rfl⟩

/-- Any bytes that the encoder's loop takes, by induction on them. -/
theorem Follows.run {y : List Byte} {m' : Compressor} (h : Follows x m) (hreached : m.Reached n)
    (hrun : m.run y = some m') : Follows (x ++ y) m' := by
  induction y generalizing x m n with
  | nil =>
    cases hrun
    rwa [List.append_nil]
  | cons c y ih =>
    rw [Compressor.run] at hrun
    cases hnext : m.next c with
    | none => simp [hnext] at hrun
    | some m₁ =>
      rw [hnext] at hrun
      have hlast := ih (h.next hreached hnext) (hreached.next hnext) hrun
      rwa [List.append_assoc] at hlast

end

/-- The final flush catches up with the whole input. -/
theorem decompressR_of_compressR {x : List Byte} {codes : List Code} (h : compressR x = some codes) :
    decompressR codes = .ok x := by
  obtain ⟨m, hrun, rfl⟩ := compressR_eq_some.1 h
  have hreached := reached_of_run hrun
  have hfollows : Follows x m :=
    Follows.run (x := []) (.inl ⟨rfl, rfl, rfl⟩) Compressor.reached_start hrun
  by_cases hn : x.length = 0
  · obtain rfl := List.length_eq_zero_iff.1 hn
    rw [hreached.finish_nil]
    rfl
  · obtain ⟨d, hd, hresult, -⟩ := hfollows.flush hreached hn
    rw [hreached.finish_flush hn]
    exact decompressR_ok.2 ⟨some d, hd, hresult⟩

theorem decompressBytesR_of_compressR {x : List Byte} {codes : List Code} (h : compressR x = some codes) :
    decompressBytesR (pack codes) = .ok x := by
  rw [decompressBytesR_ok, unpack_pack, length_pack, Nat.mul_mod_right]
  exact ⟨decompressR_of_compressR h, rfl⟩

/-- Settles O57: the functions invert each other, and the commands of either operation compute their function. -/
theorem roundTripGivesTheInputBack : Obligations.RoundTripGivesTheInputBack := by
  unfold Obligations.RoundTripGivesTheInputBack
  intro x codes hcodes
  have hinverse := decompressBytesR_of_compressR hcodes
  refine ⟨hinverse, fun s u => ?_⟩
  obtain ⟨hencode, -⟩ := encodeCommandsComputeCompress x s
  obtain ⟨t, ht, houtq, -⟩ := hencode codes hcodes
  obtain ⟨hdecode, -⟩ := decodeCommandsComputeDecompress (pack codes) u
  obtain ⟨v, hv, hresult, hmode, hdone, -⟩ := hdecode x hinverse
  exact ⟨t, v, ht, houtq.symm ▸ hv, hresult, hmode, hdone⟩

end Sys2Proof.Machine
end

section
/-! The register read map (10_state.md R33 to R39) and reads while busy (70_reset_and_hazards.md R128). -/

namespace Sys2Proof.Machine

open Sys2Proof

/-! ## Fields of an appended word -/

section
variable {a b c start len : Nat} {x : BitVec a} {y : BitVec b} {z : BitVec c}

/-- Bits above the last part are bits of what stands before it. -/
theorem extractLsb'_append_high : (x ++ y).extractLsb' (start + b) len = x.extractLsb' start len := by
  rw [BitVec.extractLsb'_append_eq_of_le (Nat.le_add_left b start), Nat.add_sub_cancel]

/-- The part before the last one stands just above it. -/
theorem extractLsb'_append_append : (x ++ y ++ z).extractLsb' c b = y := by
  rw [BitVec.extractLsb'_append_eq_of_le (Nat.le_refl c), Nat.sub_self, BitVec.extractLsb'_append_eq_right]

end

/-- A field widened to a register word stands in the low bits. -/
theorem extractLsb'_setWidth_low {w n : Nat} (h : w ≤ n) (x : BitVec w) : (x.setWidth n).extractLsb' 0 w = x := by
  rw [BitVec.extractLsb'_setWidth_of_le (by omega), BitVec.extractLsb'_eq_self]

/-- The bits above a widened field read 0. -/
theorem extractLsb'_setWidth_high {w : Nat} (x : BitVec w) (n len : Nat) :
    (x.setWidth n).extractLsb' w len = 0#len := by
  apply BitVec.eq_of_getLsbD_eq
  intro i hi
  simp [BitVec.getLsbD_extractLsb', BitVec.getLsbD_setWidth]

/-! ## STATUS (R34) -/

/-- The fields of STATUS from bit 0 up, each found by leaving off the parts below it. -/
theorem statusWord_fields (v : View) (busy : Bool) :
    (statusWord v busy).extractLsb' 0 2 = modeBits v.mode ∧
    (statusWord v busy).extractLsb' 2 3 = errBits v.err ∧
    (statusWord v busy).extractLsb' 5 1 = flagBit v.done ∧
    (statusWord v busy).extractLsb' 6 1 = flagBit busy ∧
    (statusWord v busy).extractLsb' 7 1 = flagBit v.outEmpty ∧
    (statusWord v busy).extractLsb' 8 1 = flagBit v.wValid ∧
    (statusWord v busy).extractLsb' 9 1 = flagBit v.halfValid ∧
    (statusWord v busy).extractLsb' 10 6 = 0#6 ∧
    (statusWord v busy).extractLsb' 16 8 = v.halfByte ∧
    (statusWord v busy).extractLsb' 24 8 = 0#8 := by
  have aboveErr {start len : Nat} : (statusWord v busy).extractLsb' (start + 5) len =
      (0#8 ++ v.halfByte ++ 0#6 ++ flagBit v.halfValid ++ flagBit v.wValid ++ flagBit v.outEmpty ++ flagBit busy ++
        flagBit v.done).extractLsb' start len :=
    (extractLsb'_append_high (start := start + 3)).trans extractLsb'_append_high
  have aboveOutEmpty {start len : Nat} : (statusWord v busy).extractLsb' (start + 8) len =
      (0#8 ++ v.halfByte ++ 0#6 ++ flagBit v.halfValid ++ flagBit v.wValid).extractLsb' start len :=
    (aboveErr (start := start + 3)).trans ((extractLsb'_append_high (start := start + 2)).trans
      ((extractLsb'_append_high (start := start + 1)).trans extractLsb'_append_high))
  have aboveHalfValid {start len : Nat} : (statusWord v busy).extractLsb' (start + 10) len =
      (0#8 ++ v.halfByte ++ 0#6).extractLsb' start len :=
    (aboveOutEmpty (start := start + 2)).trans ((extractLsb'_append_high (start := start + 1)).trans
      extractLsb'_append_high)
  refine ⟨BitVec.extractLsb'_append_eq_right, extractLsb'_append_append, ?done, ?busy, ?outEmpty, ?wValid, ?halfValid,
    ?reserved, ?halfByte, ?top⟩
  case done => exact (aboveErr (start := 0)).trans BitVec.extractLsb'_append_eq_right
  case busy => exact (aboveErr (start := 1)).trans extractLsb'_append_append
  case outEmpty =>
    exact (aboveErr (start := 2)).trans ((extractLsb'_append_high (start := 1)).trans extractLsb'_append_append)
  case wValid => exact (aboveOutEmpty (start := 0)).trans BitVec.extractLsb'_append_eq_right
  case halfValid => exact (aboveOutEmpty (start := 1)).trans extractLsb'_append_append
  case reserved => exact (aboveHalfValid (start := 0)).trans BitVec.extractLsb'_append_eq_right
  case halfByte => exact (aboveHalfValid (start := 6)).trans extractLsb'_append_append
  case top =>
    exact (aboveHalfValid (start := 14)).trans ((extractLsb'_append_high (start := 8)).trans
      BitVec.extractLsb'_append_eq_left)

/-- Settles O18: address 0 reads STATUS, whose fields have the numbers of R17 and R18. -/
theorem statusFieldsStandAtTheirBits : Obligations.StatusFieldsStandAtTheirBits := by
  unfold Obligations.StatusFieldsStandAtTheirBits
  intro v busy
  obtain ⟨hmode, herr, hflags⟩ := statusWord_fields v busy
  have haddr : regWord v busy 0#3 = statusWord v busy := rfl
  rw [haddr]
  refine ⟨hmode.trans ?_, herr.trans ?_, hflags⟩
  · cases v.mode <;> rfl
  · cases v.err <;> rfl

/-- Settles O19: each address reads its field widened to a register word, or 0. -/
theorem otherRegistersReadTheirField : Obligations.OtherRegistersReadTheirField := by
  unfold Obligations.OtherRegistersReadTheirField
  intro v busy
  refine ⟨⟨?_, ?_⟩, ⟨?_, ?_⟩, rfl, rfl, ⟨?_, ?_⟩, rfl, rfl⟩
  · exact extractLsb'_setWidth_low (by decide) v.dictSize
  · exact extractLsb'_setWidth_high v.dictSize 32 15
  · exact extractLsb'_setWidth_low (by decide) v.wCode
  · exact extractLsb'_setWidth_high v.wCode 32 16
  · exact extractLsb'_setWidth_low (by decide) v.faultCmd
  · exact extractLsb'_setWidth_high v.faultCmd 32 16

/-! ## Reads while busy (R128) -/

theorem readView_of_not_busy {s : State} (h : s.busy = false) (p : ReadPick) : s.readView p = s.view := by
  simp [State.readView, h]

theorem readView_of_inProgress {s : State} {v : View} (hb : s.busy = true) (hv : s.inProgress = some v)
    (p : ReadPick) : s.readView p = mixView p v s.view := by
  simp [State.readView, hb, hv]

/-- Settles O17: the view is the state's own or a mix field by field, and STATUS has the current `BUSY`. -/
theorem readWhileBusyIsBeforeOrAfter : Obligations.ReadWhileBusyIsBeforeOrAfter := by
  unfold Obligations.ReadWhileBusyIsBeforeOrAfter
  intro s p
  refine ⟨fun hb => readView_of_not_busy hb p, fun v hb hv => ?_, ?_⟩
  · rw [readView_of_inProgress hb hv]
    have hfield {α : Type} (pick : Bool) (after before : α) :
        (if pick then after else before) = before ∨ (if pick then after else before) = after :=
      match pick with
      | false => .inl rfl
      | true => .inr rfl
    exact ⟨hfield .., hfield .., hfield .., hfield .., hfield .., hfield .., hfield .., hfield .., hfield .., hfield ..,
      hfield .., hfield ..⟩
  · obtain ⟨-, -, -, hbusy, -⟩ := statusWord_fields (s.readView p) s.busy
    exact hbusy

end Sys2Proof.Machine
end

section
/-! What the commands leave unchanged and what they append (40_encoder.md R82, R83, 41_decoder.md R91 to R93, R98,
20_memory.md R49, R55), and how an operation ends (70_reset_and_hazards.md R136). -/

namespace Sys2Proof.Machine

open Sys2Proof Sys2Proof.Claims

/-! ## `ENC_END` by mode (R83) -/

theorem encode_encEnd : encode .encEnd = 0x0300#16 := by decide

theorem legal_encEnd_eq_false {m : Mode} (h : m ≠ .encode) : legal .encEnd m = false := by
  simpa [legal] using h

theorem exec_encEnd_encode {s : State} (hm : s.mode = .encode) : exec .encEnd s = .next (flushAndClose s) :=
  exec_of_legal (by simp [legal, hm])

/-- Settles O30: in ENCODE mode by whether `w` is empty, in the other modes by the gate. -/
theorem encEndFlushesAndCloses : Obligations.EncEndFlushesAndCloses := by
  unfold Obligations.EncEndFlushesAndCloses
  refine ⟨encode_encEnd, fun s => ⟨fun hm => ?_, fun hm => ?_, fun hm => ?_⟩⟩
  · rw [exec_encEnd_encode hm]
    refine ⟨fun hw => ?flush, fun hw => ?empty⟩
    case flush =>
      rw [flushAndClose, if_pos hw]
      rfl
    case empty => simp [flushAndClose, hw]
  · have ⟨henc, hfault⟩ : s.mode ≠ .encode ∧ s.mode ≠ .fault := by rcases hm with hm | hm <;> simp [hm]
    rw [exec_of_sequenceError (legal_encEnd_eq_false henc) hfault, encode_encEnd]
  · exact exec_of_dropped (legal_encEnd_eq_false (by simp [hm])) hm

/-! ## `DEC_BYTE` as a low half (R91) -/

theorem legal_decByte_eq_false {b : Byte} {m : Mode} (h : m ≠ .decode) : legal (.decByte b) m = false := by
  simpa [legal] using h

/-- Settles O31: in DECODE mode the byte is held, in the other modes by the gate. -/
theorem decByteHoldsTheLowHalf : Obligations.DecByteHoldsTheLowHalf := by
  unfold Obligations.DecByteHoldsTheLowHalf
  intro b s
  refine ⟨encode_decByte b, fun hm hh => ?_, fun hm => ?_, fun hm => ?_⟩
  · rw [exec_decByte_decode hm, takePackedByte_low hh]
    rfl
  · have ⟨hdec, hfault⟩ : s.mode ≠ .decode ∧ s.mode ≠ .fault := by rcases hm with hm | hm <;> simp [hm]
    rw [exec_of_sequenceError (legal_decByte_eq_false hdec) hfault, encode_decByte]
  · exact exec_of_dropped (legal_decByte_eq_false (by simp [hm])) hm

/-! ## The host's side and the arrays -/

theorem exec_next {i : Instr} {s t : State} (h : exec i s = .next t) : t = performIfLegal i (effectOf i) s := by
  rw [exec_eq] at h
  exact (Host.Outcome.next.inj h).symm

theorem exec_outside {i : Instr} {s t : State} (h : exec i s = .next t) : SameOutside s t :=
  exec_next h ▸ performIfLegal_outside i s

theorem exec_hostSideSame {i : Instr} {s t : State} (h : exec i s = .next t) : HostSideSame s t := exec_outside h

theorem exec_arrayEpoch {i : Instr} {s t : State} (h : exec i s = .next t) : t.arrayEpoch = s.arrayEpoch := by
  obtain ⟨-, -, -, -, -, -, hepoch⟩ := exec_outside h
  exact hepoch

/-- Only the data commands write the arrays. -/
theorem exec_dictRead_of_not_data {i : Instr} {s t : State} (h : exec i s = .next t)
    (hi : ¬((∃ c, i = .encByte c) ∨ ∃ b, i = .decByte b)) (k : Nat) : dictRead t k = dictRead s k := by
  have hdict : t.dict = s.dict := by
    rw [exec_next h]
    rcases performIfLegal_dict i s with hdict | ⟨hdata, -⟩
    · exact hdict
    · exact absurd hdata hi
  exact congrFun (dictRead_congr hdict (exec_arrayEpoch h)) k

/-- Settles O35: no command touches the host's side, and only the data commands touch the arrays. -/
theorem nonDataCommandsKeepTheArrays : Obligations.NonDataCommandsKeepTheArrays := by
  unfold Obligations.NonDataCommandsKeepTheArrays
  intro i s t hi h
  refine ⟨exec_dictRead_of_not_data h ?_, exec_hostSideSame h⟩
  rintro (⟨c, rfl⟩ | ⟨b, rfl⟩) <;> simp at hi

/-! ## The ENDs -/

/-- What an END can come to in any mode (R83, R93, R110, R114): a flush, a close without one, a fault, or nothing. -/
theorem exec_end_cases {i : Instr} {s t : State} (hi : i ∈ [.encEnd, .decEnd]) (h : exec i s = .next t) :
    (i = .encEnd ∧ s.wValid = true ∧
      t = { emit (codeBytes s.wCode) s with wValid := false, mode := .idle, done := true }) ∨
    t = { s with wValid := false, mode := .idle, done := true } ∨
    (∃ cause cmd, t = raiseFault cause cmd s) ∨
    (s.mode = .fault ∧ t = s) := by
  obtain rfl := exec_next h
  rcases performIfLegal_cases i (effectOf i) s with ⟨-, ht⟩ | ⟨-, hm, ht⟩ | ⟨-, -, ht⟩ <;> rw [ht]
  · simp only [List.mem_cons, List.not_mem_nil, or_false] at hi
    rcases hi with rfl | rfl
    · rcases flushAndClose_cases s with ⟨hw, ht⟩ | ⟨-, ht⟩
      · exact .inl ⟨rfl, hw, ht⟩
      · exact .inr (.inl ht)
    · rcases closeDecode_cases s with ⟨-, ht⟩ | ⟨-, ht⟩
      · exact .inr (.inr (.inl ⟨_, _, ht⟩))
      · exact .inr (.inl ht)
  · exact .inr (.inr (.inr ⟨hm, rfl⟩))
  · exact .inr (.inr (.inl ⟨_, _, rfl⟩))

/-- Settles O36: by the four outcomes of an END; no END writes the arrays. -/
theorem endCommandsFrame : Obligations.EndCommandsFrame := by
  unfold Obligations.EndCommandsFrame
  intro i s t hi h
  have hdict := exec_dictRead_of_not_data h (by rintro (⟨c, rfl⟩ | ⟨b, rfl⟩) <;> simp at hi)
  have hhost := exec_hostSideSame h
  rcases exec_end_cases hi h with ⟨rfl, hw, rfl⟩ | rfl | ⟨cause, cmd, rfl⟩ | ⟨-, rfl⟩
  · exact ⟨rfl, rfl, rfl, rfl, rfl, hdict, hhost, rfl, fun _ => ⟨rfl, rfl⟩, nofun, by simp [hw]⟩
  · exact ⟨rfl, rfl, rfl, rfl, rfl, hdict, hhost, rfl, fun _ => ⟨rfl, rfl⟩, nofun, fun _ => ⟨rfl, rfl⟩⟩
  · exact ⟨rfl, rfl, rfl, rfl, rfl, hdict, hhost, rfl, by simp, fun _ => rfl, fun _ => ⟨rfl, rfl⟩⟩
  · exact ⟨rfl, rfl, rfl, rfl, rfl, hdict, hhost, rfl, fun _ => ⟨rfl, rfl⟩, fun _ => rfl, fun _ => ⟨rfl, rfl⟩⟩

/-! ## How an operation ends (R136) -/

theorem outcome_of_closed {t : State} (hb : t.busy = false) (hm : t.mode = .idle) (hd : t.done = true) :
    Safety.succeeded t = true ∧ Safety.failed t = false ∧ Safety.result t = some (t.popped ++ t.outq) := by
  simp [Safety.succeeded, Safety.failed, Safety.result, hb, hm, hd]

theorem outcome_of_fault {t : State} (hb : t.busy = false) (hm : t.mode = .fault) :
    Safety.succeeded t = false ∧ Safety.failed t = true ∧ Safety.result t = none := by
  simp [Safety.succeeded, Safety.failed, Safety.result, hb, hm]

/-- Settles O52: an END closes the operation in IDLE mode with `DONE`, or leaves FAULT mode. -/
theorem endHasOneOfTwoOutcomes : Obligations.EndHasOneOfTwoOutcomes := by
  unfold Obligations.EndHasOneOfTwoOutcomes
  intro i s t hi h hb
  rcases exec_end_cases hi h with ⟨-, -, rfl⟩ | rfl | ⟨cause, cmd, rfl⟩ | ⟨hm, rfl⟩
  · exact .inl (outcome_of_closed hb rfl rfl)
  · exact .inl (outcome_of_closed hb rfl rfl)
  · exact .inr (outcome_of_fault hb rfl)
  · exact .inr (outcome_of_fault hb hm)

/-! ## The dictionary only grows (R49) -/

/-- Within an operation a command keeps the dictionary, or inserts one entry after `w` with room for it. -/
theorem effectOf_grows {i : Instr} (hi : i ≠ .encStart ∧ i ≠ .decStart ∧ i ≠ .abort) (s : State) :
    SameDictionary (effectOf i s) s ∨
    (s.dictSize ≠ 65536#17 ∧ ∃ c, SameDictionary (effectOf i s) (dictInsert s.wCode c s)) := by
  obtain ⟨hencStart, hdecStart, habort⟩ := hi
  cases i with
  | nop => exact .inl ⟨rfl, rfl, rfl⟩
  | encStart => exact absurd rfl hencStart
  | decStart => exact absurd rfl hdecStart
  | abort => exact absurd rfl habort
  | encByte c =>
    rcases takeInputByte_cases c s with ⟨-, h⟩ | ⟨-, k, -, h⟩ | ⟨-, -, -, h⟩ | ⟨-, -, hroom, h⟩ <;> rw [effectOf, h]
    · exact .inl ⟨rfl, rfl, rfl⟩
    · exact .inl ⟨rfl, rfl, rfl⟩
    · exact .inl ⟨rfl, rfl, rfl⟩
    · exact .inr ⟨hroom, c, sameDictionary_encodeMiss c s⟩
  | encEnd => exact .inl (sameDictionary_flushAndClose s)
  | decByte b =>
    rcases takePackedByte_cases b s with ⟨-, h⟩ | ⟨-, cause, -, h⟩ | ⟨-, hf, h⟩ <;> rw [effectOf, h]
    · exact .inl ⟨rfl, rfl, rfl⟩
    · exact .inl ⟨rfl, rfl, rfl⟩
    · rcases codeFault_none.1 hf with ⟨hw, -⟩ | ⟨hw, -, hroom⟩
      · rw [decodeCode_first hw]
        exact .inl ⟨rfl, rfl, rfl⟩
      · exact .inr ⟨hroom, _, sameDictionary_decodeCode _ hw⟩
  | decEnd =>
    rcases closeDecode_cases s with ⟨-, h⟩ | ⟨-, h⟩ <;> rw [effectOf, h] <;> exact .inl ⟨rfl, rfl, rfl⟩

theorem exec_grows {i : Instr} {s t : State} (hi : i ≠ .encStart ∧ i ≠ .decStart ∧ i ≠ .abort)
    (h : exec i s = .next t) :
    SameDictionary t s ∨ (s.dictSize ≠ 65536#17 ∧ ∃ c, SameDictionary t (dictInsert s.wCode c s)) := by
  obtain rfl := exec_next h
  rcases performIfLegal_cases i (effectOf i) s with ⟨-, ht⟩ | ⟨-, -, ht⟩ | ⟨-, -, ht⟩ <;> rw [ht]
  · exact effectOf_grows hi s
  · exact .inl ⟨rfl, rfl, rfl⟩
  · exact .inl ⟨rfl, rfl, rfl⟩

/-- Settles O45: the dictionary is kept, or grows by the entry at code `DICT_SIZE`. -/
theorem dictionaryIsAppendOnly : Obligations.DictionaryIsAppendOnly := by
  unfold Obligations.DictionaryIsAppendOnly
  intro i s t hencStart hdecStart habort hrange h
  rcases exec_grows ⟨hencStart, hdecStart, habort⟩ h with hsame | ⟨hroom, c, hsame⟩ <;> rw [hsame.size, hsame.dictRead]
  · exact ⟨Nat.le_refl _, Nat.le_succ _, fun _ _ _ => rfl⟩
  · have hne : s.dictSize.toNat ≠ 65536 := fun heq => hroom (BitVec.eq_of_toNat_eq heq)
    rw [dictInsert_size (by omega)]
    exact ⟨Nat.le_succ _, Nat.le_refl _, fun k _ hk => dictRead_dictInsert_old s s.wCode c hk⟩

/-- The arrays after a command within an operation: only the words at code `DICT_SIZE` change, and only if it rises. -/
theorem exec_dictRead_frame {i : Instr} {s t : State} (hi : i ≠ .encStart ∧ i ≠ .decStart ∧ i ≠ .abort)
    (h : exec i s = .next t) :
    (∀ k, k ≠ s.dictSize.toNat → dictRead t k = dictRead s k) ∧
    (t.dictSize = s.dictSize → ∀ k, dictRead t k = dictRead s k) := by
  rcases exec_grows hi h with hsame | ⟨-, c, hsame⟩ <;> rw [hsame.size, hsame.dictRead]
  · exact ⟨fun _ _ => rfl, fun _ _ => rfl⟩
  · refine ⟨fun k hk => by rw [dictRead_dictInsert, if_neg hk], fun hsize => ?_⟩
    have hrises : s.dictSize + 1#17 ≠ s.dictSize := by simp
    exact absurd hsize hrises

/-! ## The data commands' frames -/

/-- Settles O37: by the four cases of `takeInputByte`; a command dropped or out of mode writes no more than a fault. -/
theorem encByteFrame : Obligations.EncByteFrame := by
  unfold Obligations.EncByteFrame
  intro c s t h
  obtain ⟨hother, hkept⟩ := exec_dictRead_frame (i := .encByte c) ⟨nofun, nofun, nofun⟩ h
  have hhost := exec_hostSideSame h
  obtain rfl := exec_next h
  refine ⟨hother, hkept, hhost, ?_⟩
  rcases performIfLegal_cases (.encByte c) (effectOf (.encByte c)) s with ⟨-, ht⟩ | ⟨-, -, ht⟩ | ⟨-, -, ht⟩ <;> rw [ht]
  · rcases takeInputByte_cases c s with ⟨-, ht⟩ | ⟨-, k, -, ht⟩ | ⟨-, -, -, ht⟩ | ⟨-, -, -, ht⟩ <;>
      simp [effectOf, ht]
  · simp
  · simp

/-- Settles O38: by the cases of `takePackedByte`, a complete code writing what its frame leaves. -/
theorem decByteFrame : Obligations.DecByteFrame := by
  unfold Obligations.DecByteFrame
  intro b s t h
  obtain ⟨hother, hkept⟩ := exec_dictRead_frame (i := .decByte b) ⟨nofun, nofun, nofun⟩ h
  have hhost := exec_hostSideSame h
  obtain rfl := exec_next h
  refine ⟨hother, hkept, hhost, ?_⟩
  rcases performIfLegal_cases (.decByte b) (effectOf (.decByte b)) s with ⟨-, ht⟩ | ⟨-, -, ht⟩ | ⟨-, -, ht⟩ <;> rw [ht]
  · rcases takePackedByte_cases b s with ⟨hh, ht⟩ | ⟨hh, cause, -, ht⟩ | ⟨hh, -, ht⟩
    · simp [effectOf, ht, hh]
    · simp [effectOf, ht]
    · obtain ⟨hmode, herr, hdone, hcmd, hbyte, -, hpopped⟩ := decodeCode_frame (assembleCode b s.halfByte) s
      simp [effectOf, ht, hh, hmode, herr, hdone, hcmd, hbyte, hpopped]
  · simp
  · simp

/-! ## What a command appends (R55, R98, R132) -/

/-- The bytes `bs` are appended to the queue and counted. -/
def Appends (bs : List Byte) (s t : State) : Prop :=
  t.outq = s.outq ++ bs ∧ t.outCount = s.outCount + BitVec.ofNat 32 bs.length

theorem appends_nil {s t : State} (hq : t.outq = s.outq) (hc : t.outCount = s.outCount) : Appends [] s t := by
  simp [Appends, hq, hc]

theorem appends_takeInputByte (c : Byte) (s : State) : ∃ bs, Appends bs s (takeInputByte c s) ∧ bs.length ≤ 2 := by
  rcases takeInputByte_cases c s with ⟨-, h⟩ | ⟨-, k, -, h⟩ | ⟨-, -, -, h⟩ | ⟨-, -, -, h⟩ <;> rw [h]
  · exact ⟨[], appends_nil rfl rfl, Nat.zero_le 2⟩
  · exact ⟨[], appends_nil rfl rfl, Nat.zero_le 2⟩
  · exact ⟨[], appends_nil rfl rfl, Nat.zero_le 2⟩
  · exact ⟨codeBytes s.wCode, ⟨rfl, rfl⟩, Nat.le_refl 2⟩

theorem appends_flushAndClose (s : State) : ∃ bs, Appends bs s (flushAndClose s) ∧ bs.length ≤ 2 := by
  rcases flushAndClose_cases s with ⟨-, h⟩ | ⟨-, h⟩ <;> rw [h]
  · exact ⟨codeBytes s.wCode, ⟨rfl, rfl⟩, Nat.le_refl 2⟩
  · exact ⟨[], appends_nil rfl rfl, Nat.zero_le 2⟩

theorem appends_closeDecode (s : State) : Appends [] s (closeDecode s) := by
  rcases closeDecode_cases s with ⟨-, h⟩ | ⟨-, h⟩ <;> rw [h] <;> exact appends_nil rfl rfl

/-- R98: a complete code emits a string of the dictionary. -/
theorem appends_takePackedByte (b : Byte) {s : State} (hdict : s.DictOk) :
    ∃ bs, Appends bs s (takePackedByte b s) ∧ bs.length ≤ 65281 := by
  rcases takePackedByte_cases b s with ⟨-, h⟩ | ⟨-, cause, -, h⟩ | ⟨-, hf, h⟩ <;> rw [h]
  · exact ⟨[], appends_nil rfl rfl, Nat.zero_le _⟩
  · exact ⟨[], appends_nil rfl rfl, Nat.zero_le _⟩
  · rcases codeFault_none.1 hf with ⟨hw, -⟩ | ⟨hw, -, hroom⟩
    · rw [decodeCode_first hw]
      exact ⟨[codeLow (assembleCode b s.halfByte)], ⟨rfl, rfl⟩, by rw [List.length_singleton]; omega⟩
    · rw [decodeCode_later hw]
      exact ⟨decodedEntry (assembleCode b s.halfByte) s, ⟨rfl, rfl⟩, decodedEntry_length_le hdict hw hroom⟩

/-- Settles O46: a command that is not performed appends nothing, and each command performed has its bound. -/
theorem outputPerCommandIsBounded : Obligations.OutputPerCommandIsBounded := by
  unfold Obligations.OutputPerCommandIsBounded
  intro i s t hinv hencStart hdecStart habort h
  obtain rfl := exec_next h
  have hnone {t : State} (ht : Appends [] s t) : ∃ bs, t.outq = s.outq ++ bs ∧
      t.outCount = s.outCount + BitVec.ofNat 32 bs.length ∧ ((∃ c, i = .encByte c) ∨ i = .encEnd → bs.length ≤ 2) ∧
      ((∃ b, i = .decByte b) → bs.length ≤ 65281) ∧ (i = .nop ∨ i = .decEnd → bs = []) :=
    ⟨[], ht.1, ht.2, by simp, by simp, by simp⟩
  rcases performIfLegal_cases i (effectOf i) s with ⟨-, ht⟩ | ⟨-, -, ht⟩ | ⟨-, -, ht⟩ <;> rw [ht]
  case inr.inl => exact hnone (appends_nil rfl rfl)
  case inr.inr => exact hnone (appends_nil rfl rfl)
  case inl =>
    cases i with
    | encStart => exact absurd rfl hencStart
    | decStart => exact absurd rfl hdecStart
    | abort => exact absurd rfl habort
    | nop => exact hnone (appends_nil rfl rfl)
    | decEnd => exact hnone (appends_closeDecode s)
    | encByte c =>
      obtain ⟨bs, ⟨hq, hc⟩, hlength⟩ := appends_takeInputByte c s
      exact ⟨bs, hq, hc, fun _ => hlength, by simp, by simp⟩
    | encEnd =>
      obtain ⟨bs, ⟨hq, hc⟩, hlength⟩ := appends_flushAndClose s
      exact ⟨bs, hq, hc, fun _ => hlength, by simp, by simp⟩
    | decByte b =>
      have hdict : s.DictOk := by
        obtain ⟨-, hdict, -⟩ := hinv
        exact hdict
      obtain ⟨bs, ⟨hq, hc⟩, hlength⟩ := appends_takePackedByte b hdict
      exact ⟨bs, hq, hc, by simp, fun _ => hlength, by simp⟩

end Sys2Proof.Machine
end

section
/-! Two runs of one command (20_memory.md R49, R59, 40_encoder.md R87, 10_state.md R58): states with the same registers
whose dictionaries give the same answers, and states that differ in the word last read. -/

namespace Sys2Proof.Machine

open Sys2Proof

/-! ## States that answer alike -/

/-- The registers of R15 but the queue and the arrays. -/
def SameRegisters (s t : State) : Prop :=
  s.mode = t.mode ∧ s.err = t.err ∧ s.done = t.done ∧ s.wValid = t.wValid ∧ s.wCode = t.wCode ∧
  s.dictSize = t.dictSize ∧ s.halfValid = t.halfValid ∧ s.halfByte = t.halfByte ∧ s.faultCmd = t.faultCmd ∧
  s.inCount = t.inCount ∧ s.outCount = t.outCount

theorem SameRegisters.rfl {s : State} : SameRegisters s s := by simp [SameRegisters]

/-- A code that a command may ask the dictionary for: one of the dictionary, or `W_CODE`. -/
def Asked (s : State) (k : Code) : Prop := k.toNat < s.dictSize.toNat ∨ (s.wValid = true ∧ k = s.wCode)

theorem asked_wCode {s : State} (hw : s.wValid = true) : Asked s s.wCode := .inr ⟨hw, rfl⟩

/-- The same registers, and the same answers to every question that a command asks the dictionary. -/
structure AnswersAlike (s t : State) : Prop where
  registers : SameRegisters s t
  first : ∀ k, Asked s k → firstOf s k = firstOf t k
  string : ∀ k, Asked s k → strOf s k = strOf t k
  lookup : s.wValid = true → ∀ c, indexLookup s s.wCode c = indexLookup t s.wCode c

/-- What one command makes of two states that answer alike: the same registers, the same bytes appended or the queue
emptied, the arrays kept or the same entry inserted. -/
structure ActsAlike (s t s' t' : State) : Prop where
  registers : SameRegisters s' t'
  output : (∃ bs, s'.popped = s.popped ∧ s'.outq = s.outq ++ bs ∧ t'.popped = t.popped ∧ t'.outq = t.outq ++ bs) ∨
    (s'.popped = [] ∧ s'.outq = [] ∧ t'.popped = [] ∧ t'.outq = [])
  arrays : (s'.dict = s.dict ∧ t'.dict = t.dict ∧ (s'.dictSize = s.dictSize ∨ s'.dictSize = 256#17)) ∨
    (∃ p c, Asked s p ∧ s.dictSize ≠ 65536#17 ∧ SameDictionary s' (dictInsert p c s) ∧
      SameDictionary t' (dictInsert p c t))

section
variable {s t : State}

/-- A command that leaves the queue and the arrays. -/
theorem actsAlike_of_registers {s' t' : State} (h : SameRegisters s' t') (hs : s'.popped = s.popped ∧ s'.outq = s.outq)
    (ht : t'.popped = t.popped ∧ t'.outq = t.outq) (hds : s'.dict = s.dict ∧ s'.dictSize = s.dictSize)
    (hdt : t'.dict = t.dict) : ActsAlike s t s' t' where
  registers := h
  output := .inl ⟨[], hs.1, by rw [hs.2, List.append_nil], ht.1, by rw [ht.2, List.append_nil]⟩
  arrays := .inl ⟨hds.1, hdt, .inl hds.2⟩

theorem actsAlike_raiseFault (h : SameRegisters s t) (cause : ErrCode) (cmd : Word) :
    ActsAlike s t (raiseFault cause cmd s) (raiseFault cause cmd t) := by
  refine actsAlike_of_registers ?_ ⟨rfl, rfl⟩ ⟨rfl, rfl⟩ ⟨rfl, rfl⟩ rfl
  simp only [SameRegisters] at h
  simp [SameRegisters, h]

theorem actsAlike_freshStart (m : Mode) (s t : State) : ActsAlike s t (freshStart m s) (freshStart m t) where
  registers := by simp [SameRegisters]
  output := .inr ⟨rfl, rfl, rfl, rfl⟩
  arrays := .inl ⟨rfl, rfl, .inr rfl⟩

section
variable (h : AnswersAlike s t)
include h

theorem actsAlike_takeInputByte (c : Byte) : ActsAlike s t (takeInputByte c s) (takeInputByte c t) := by
  have hregs := h.registers
  have hlookup := h.lookup
  obtain ⟨hmode, herr, hdone, hw, hwCode, hsize, hh, hb, hcmd, hin, hout⟩ := h.registers
  rcases takeInputByte_cases c s with ⟨hs, he⟩ | ⟨hs, k, hk, he⟩ | ⟨hs, hmiss, hfull, he⟩ | ⟨hs, hmiss, hroom, he⟩ <;>
    rw [he]
  · rw [takeInputByte_begin c (hw ▸ hs)]
    refine actsAlike_of_registers ?_ ⟨rfl, rfl⟩ ⟨rfl, rfl⟩ ⟨rfl, rfl⟩ rfl
    simp [SameRegisters, hmode, herr, hdone, hsize, hh, hb, hcmd, hin, hout]
  · rw [takeInputByte_hit c (hw ▸ hs) (k := k) (by rw [← hwCode, ← hlookup hs, hk])]
    refine actsAlike_of_registers ?_ ⟨rfl, rfl⟩ ⟨rfl, rfl⟩ ⟨rfl, rfl⟩ rfl
    simp [SameRegisters, hmode, herr, hdone, hw, hsize, hh, hb, hcmd, hin, hout]
  · rw [takeInputByte_full c (hw ▸ hs) (by rw [← hwCode, ← hlookup hs, hmiss]) (hsize ▸ hfull)]
    exact actsAlike_raiseFault hregs _ _
  · rw [takeInputByte_miss c (hw ▸ hs) (by rw [← hwCode, ← hlookup hs, hmiss]) (hsize ▸ hroom)]
    have hsame := sameDictionary_encodeMiss c t
    rw [← hwCode] at hsame
    refine ⟨?_, .inl ⟨codeBytes s.wCode, rfl, rfl, rfl, by rw [hwCode]; rfl⟩,
      .inr ⟨s.wCode, c, asked_wCode hs, hroom, sameDictionary_encodeMiss c s, hsame⟩⟩
    simp [SameRegisters, hmode, herr, hdone, hw, hsize, hh, hb, hcmd, hin, hout]

theorem actsAlike_flushAndClose : ActsAlike s t (flushAndClose s) (flushAndClose t) := by
  obtain ⟨-, herr, -, hw, hwCode, hsize, hh, hb, hcmd, hin, hout⟩ := h.registers
  cases hs : s.wValid with
  | true =>
    rw [flushAndClose_of_pending hs, flushAndClose_of_pending (hw ▸ hs)]
    refine ⟨?_, .inl ⟨codeBytes s.wCode, rfl, rfl, rfl, by rw [hwCode]; rfl⟩, .inl ⟨rfl, rfl, .inl rfl⟩⟩
    simp [SameRegisters, herr, hwCode, hsize, hh, hb, hcmd, hin, hout]
  | false =>
    rw [flushAndClose_of_empty hs, flushAndClose_of_empty (hw ▸ hs)]
    refine actsAlike_of_registers ?_ ⟨rfl, rfl⟩ ⟨rfl, rfl⟩ ⟨rfl, rfl⟩ rfl
    simp [SameRegisters, herr, hwCode, hsize, hh, hb, hcmd, hin, hout]

theorem actsAlike_closeDecode : ActsAlike s t (closeDecode s) (closeDecode t) := by
  have hregs := h.registers
  obtain ⟨-, herr, -, hw, hwCode, hsize, hh, hb, hcmd, hin, hout⟩ := h.registers
  cases hs : s.halfValid with
  | true =>
    rw [closeDecode_of_half hs, closeDecode_of_half (hh ▸ hs)]
    exact actsAlike_raiseFault hregs _ _
  | false =>
    rw [closeDecode_of_whole hs, closeDecode_of_whole (hh ▸ hs)]
    refine actsAlike_of_registers ?_ ⟨rfl, rfl⟩ ⟨rfl, rfl⟩ ⟨rfl, rfl⟩ rfl
    simp [SameRegisters, herr, hwCode, hsize, hh, hb, hcmd, hin, hout]

/-- A complete code raises the same fault, and stands for the same entry. -/
theorem AnswersAlike.code (k : Code) :
    codeFault k s = codeFault k t ∧
    (s.wValid = true → decodedEntry k s = decodedEntry k t ∧ decodedFirst k s = decodedFirst k t) := by
  obtain ⟨-, -, -, hw, hwCode, hsize, -⟩ := h.registers
  refine ⟨by rw [codeFault, codeFault, dictFull, dictFull, hw, hsize], fun hs => ?_⟩
  have hword := h.string _ (asked_wCode hs)
  have hfirst := h.first _ (asked_wCode hs)
  rw [decodedEntry, decodedEntry, decodedFirst, decodedFirst, ← hsize, ← hwCode, ← hword, ← hfirst]
  split
  · next hk => exact ⟨h.string k (.inl hk), h.first k (.inl hk)⟩
  · exact ⟨rfl, rfl⟩

theorem actsAlike_takePackedByte (b : Byte) : ActsAlike s t (takePackedByte b s) (takePackedByte b t) := by
  have hregs := h.registers
  have hcode := h.code (assembleCode b s.halfByte)
  obtain ⟨hmode, herr, hdone, hw, hwCode, hsize, hh, hb, hcmd, hin, hout⟩ := h.registers
  rw [takePackedByte, takePackedByte, ← hh, ← hb]
  generalize assembleCode b s.halfByte = k at *
  obtain ⟨hfault, hentry⟩ := hcode
  split
  · rw [← hfault]
    cases hf : codeFault k s with
    | some cause => exact actsAlike_raiseFault hregs _ _
    | none =>
      cases hs : s.wValid with
      | false =>
        simp only [decodeCode_first hs, decodeCode_first (hw ▸ hs)]
        refine ⟨?_, .inl ⟨[codeLow k], rfl, rfl, rfl, rfl⟩, .inl ⟨rfl, rfl, .inl rfl⟩⟩
        simp [SameRegisters, hmode, herr, hdone, hsize, hb, hcmd, hin, hout]
      | true =>
        obtain ⟨hbytes, hfirst⟩ := hentry hs
        obtain ⟨-, hroom⟩ : k.toNat ≤ s.dictSize.toNat ∧ s.dictSize ≠ 65536#17 := by
          simpa [hs] using codeFault_none.1 hf
        have hsame := sameDictionary_decodeCode k hs
        have hsame' := sameDictionary_decodeCode k (hw ▸ hs)
        rw [← hwCode, ← hfirst] at hsame'
        simp only [decodeCode_later hs, decodeCode_later (hw ▸ hs)] at hsame hsame' ⊢
        refine ⟨?_, .inl ⟨decodedEntry k s, rfl, rfl, rfl, by rw [hbytes]; rfl⟩,
          .inr ⟨s.wCode, decodedFirst k s, asked_wCode hs, hroom, hsame, hsame'⟩⟩
        simp [SameRegisters, hmode, herr, hdone, hw, hsize, hb, hcmd, hin, hout, hbytes]
  · refine actsAlike_of_registers ?_ ⟨rfl, rfl⟩ ⟨rfl, rfl⟩ ⟨rfl, rfl⟩ rfl
    simp [SameRegisters, hmode, herr, hdone, hw, hwCode, hsize, hcmd, hin, hout]

theorem actsAlike_effectOf (i : Instr) : ActsAlike s t (effectOf i s) (effectOf i t) := by
  cases i with
  | nop => exact actsAlike_of_registers h.registers ⟨rfl, rfl⟩ ⟨rfl, rfl⟩ ⟨rfl, rfl⟩ rfl
  | encStart | decStart | abort => exact actsAlike_freshStart _ s t
  | encByte c => exact actsAlike_takeInputByte h c
  | encEnd => exact actsAlike_flushAndClose h
  | decByte b => exact actsAlike_takePackedByte h b
  | decEnd => exact actsAlike_closeDecode h

end

end

/-- The gate goes by `MODE`, which is the same. -/
theorem exec_actsAlike {i : Instr} {s t s' t' : State} (h : AnswersAlike s t) (hs : exec i s = .next s')
    (ht : exec i t = .next t') : ActsAlike s t s' t' := by
  obtain rfl := exec_next hs
  obtain rfl := exec_next ht
  have hregs := h.registers
  obtain ⟨hmode, -⟩ := h.registers
  rcases performIfLegal_cases i (effectOf i) s with ⟨hlegal, he⟩ | ⟨hlegal, hm, he⟩ | ⟨hlegal, hm, he⟩ <;> rw [he] <;>
    rw [hmode] at hlegal
  · rw [performIfLegal_legal _ hlegal]
    exact actsAlike_effectOf h i
  · rw [performIfLegal_dropped _ hlegal (hmode ▸ hm)]
    exact actsAlike_of_registers hregs ⟨rfl, rfl⟩ ⟨rfl, rfl⟩ ⟨rfl, rfl⟩ rfl
  · rw [performIfLegal_sequenceError _ hlegal (hmode ▸ hm)]
    exact actsAlike_raiseFault hregs _ _

/-! ## The schedule (R59) -/

theorem sameCore_iff {s t : State} :
    State.SameCore s t ↔
      SameRegisters s t ∧ s.popped ++ s.outq = t.popped ++ t.outq ∧ s.dict = t.dict ∧
        s.arrayEpoch = t.arrayEpoch := by
  simp only [State.SameCore, SameRegisters, and_assoc]

theorem State.SameCore.answersAlike {s t : State} (h : State.SameCore s t) : AnswersAlike s t := by
  have hsame := h.sameDictionary
  obtain ⟨hregs, -, hdict, hepoch⟩ := sameCore_iff.1 h
  exact
    { registers := hregs
      first := fun k _ => congrFun hsame.firstOf k
      string := fun k _ => congrFun hsame.strOf k
      lookup := fun _ c => congrFun (congrFun (indexLookup_congr hdict hepoch hsame.size) s.wCode) c }

/-- Settles O51: no command reads the ledger, the queue or the host's side, so both states take the same bytes and the
same entry. -/
theorem scheduleIsNotObservable : Obligations.ScheduleIsNotObservable := by
  unfold Obligations.ScheduleIsNotObservable
  intro i s t s' t' h hs ht
  have hacts := exec_actsAlike h.answersAlike hs ht
  have hsame := h.sameDictionary
  obtain ⟨-, hbytes, hdict, hepoch⟩ := sameCore_iff.1 h
  refine sameCore_iff.2 ⟨hacts.registers, ?bytes, ?dict, ?epoch⟩
  case bytes =>
    rcases hacts.output with ⟨bs, hp, hq, hp', hq'⟩ | ⟨hp, hq, hp', hq'⟩ <;> rw [hp, hq, hp', hq']
    rw [← List.append_assoc, ← List.append_assoc, hbytes]
  case dict =>
    rcases hacts.arrays with ⟨hd, hd', -⟩ | ⟨p, c, -, -, hd, hd'⟩
    · rw [hd, hd', hdict]
    · rw [hd.1, hd'.1, dictInsert_dict, dictInsert_dict, hdict, hsame.size, hsame.firstOf]
  case epoch => rw [exec_arrayEpoch hs, exec_arrayEpoch ht, hepoch]

/-! ## Leftovers (R49, R87) -/

theorem sameButLeftovers_iff {s t : State} :
    State.SameButLeftovers s t ↔
      SameRegisters s t ∧ s.outq = t.outq ∧ s.popped = t.popped ∧
        ∀ k, 256 ≤ k → k < s.dictSize.toNat → dictRead s k = dictRead t k := by
  simp only [State.SameButLeftovers, SameRegisters, and_assoc]

/-- A search depends on what the predicate says of the list's own elements. -/
theorem find?_eq_of_forall_mem {α : Type} {p q : α → Bool} {l : List α} (h : ∀ a ∈ l, p a = q a) :
    l.find? p = l.find? q := by
  induction l with
  | nil => rfl
  | cons a l ih =>
    have ⟨hhead, htail⟩ := List.forall_mem_cons.1 h
    rw [List.find?_cons, List.find?_cons, hhead, ih htail]

/-- `First`, `Str` and the index read the entries below `DICT_SIZE` only. -/
theorem State.SameButLeftovers.answersAlike {s t : State} (h : State.SameButLeftovers s t) (hinv : s.Inv) :
    AnswersAlike s t := by
  obtain ⟨hregs, -, -, hread⟩ := sameButLeftovers_iff.1 h
  have hentries := entriesOk_of_inv hinv
  have hasked {k : Code} (hk : Asked s k) : k.toNat < s.dictSize.toNat := by
    rcases hk with hk | ⟨hw, rfl⟩
    · exact hk
    · exact wCode_lt_of_inv hinv hw
  refine ⟨hregs, fun k hk => ?first, fun k hk => strOf_agree hentries.descends hread (hasked hk), fun _ c => ?lookup⟩
  case first =>
    rw [firstOf, firstOf]
    split
    · rfl
    · next hstored => rw [hread k.toNat (Nat.le_of_not_lt hstored) (hasked hk)]
  case lookup =>
    obtain ⟨-, -, -, -, -, hsize, -⟩ := hregs
    rw [indexLookup, indexLookup, storedCodes, storedCodes, ← hsize]
    refine find?_eq_of_forall_mem fun k hk => ?_
    rw [List.mem_range'_1] at hk
    rw [entryMatches, entryMatches, hread k hk.1 (by omega)]

/-- Settles O50: the commands ask about entries below `DICT_SIZE` only, and write the one at `DICT_SIZE` alike. -/
theorem leftoversAreNotObservable : Obligations.LeftoversAreNotObservable := by
  unfold Obligations.LeftoversAreNotObservable
  intro i s t s' t' hinv _ h hs ht
  have halike := h.answersAlike hinv
  have hacts := exec_actsAlike halike hs ht
  obtain ⟨hregs, hq, hp, hread⟩ := sameButLeftovers_iff.1 h
  refine sameButLeftovers_iff.2 ⟨hacts.registers, ?outq, ?popped, ?read⟩
  case outq =>
    rcases hacts.output with ⟨bs, -, hq', -, hq''⟩ | ⟨-, hq', -, hq''⟩ <;> rw [hq', hq'']
    rw [hq]
  case popped =>
    rcases hacts.output with ⟨bs, hp', -, hp'', -⟩ | ⟨hp', -, hp'', -⟩ <;> rw [hp', hp'']
    exact hp
  case read =>
    intro k hk hlt
    rcases hacts.arrays with ⟨hd, hd', hsize⟩ | ⟨p, c, hp, hroom, hd, hd'⟩
    · rw [dictRead_congr hd (exec_arrayEpoch hs), dictRead_congr hd' (exec_arrayEpoch ht)]
      rcases hsize with hsize | hsize
      · exact hread k hk (hsize ▸ hlt)
      · have hseed : s'.dictSize.toNat = 256 := by rw [hsize, BitVec.toNat_ofNat]
        omega
    · rw [hd.size, dictInsert_size ((entriesOk_of_inv hinv).size_lt hroom)] at hlt
      obtain ⟨-, -, -, -, -, hsize, -⟩ := hregs
      rw [hd.dictRead, hd'.dictRead, dictRead_dictInsert, dictRead_dictInsert, ← hsize, ← halike.first p hp]
      split
      · rfl
      · exact hread k hk (by omega)

/-! ## The word last read (R33, R58) -/

/-- The state with another word latched on the read port. -/
def withRead (r : Word32) (s : State) : State := { s with regRdata := r }

section
variable (r : Word32) (s : State)

theorem indexLookup_withRead : indexLookup (withRead r s) = indexLookup s := indexLookup_congr rfl rfl rfl

theorem takeInputByte_withRead (c : Byte) : takeInputByte c (withRead r s) = withRead r (takeInputByte c s) := by
  have hlookup : indexLookup (withRead r s) (withRead r s).wCode c = indexLookup s s.wCode c := by
    rw [indexLookup_withRead]
    rfl
  rcases takeInputByte_cases c s with ⟨hw, h⟩ | ⟨hw, k, hk, h⟩ | ⟨hw, hmiss, hfull, h⟩ | ⟨hw, hmiss, hroom, h⟩ <;>
    rw [h]
  · exact takeInputByte_begin (s := withRead r s) c hw
  · exact takeInputByte_hit (s := withRead r s) c hw (hlookup.trans hk)
  · exact takeInputByte_full (s := withRead r s) c hw (hlookup.trans hmiss) hfull
  · exact takeInputByte_miss (s := withRead r s) c hw (hlookup.trans hmiss) hroom

theorem flushAndClose_withRead : flushAndClose (withRead r s) = withRead r (flushAndClose s) := by
  rcases flushAndClose_cases s with ⟨hw, h⟩ | ⟨hw, h⟩ <;> rw [h]
  · exact flushAndClose_of_pending (s := withRead r s) hw
  · exact flushAndClose_of_empty (s := withRead r s) hw

theorem decodeCode_withRead (k : Code) : decodeCode k (withRead r s) = withRead r (decodeCode k s) := by
  have hstr : strOf (withRead r s) = strOf s := strOf_congr rfl rfl
  have hentry : decodedEntry k (withRead r s) = decodedEntry k s := by
    rw [decodedEntry, decodedEntry, hstr]
    rfl
  cases hw : s.wValid with
  | false =>
    rw [decodeCode_first hw]
    exact decodeCode_first (s := withRead r s) hw
  | true =>
    rw [decodeCode_later hw, decodeCode_later (s := withRead r s) hw, hentry]
    rfl

theorem takePackedByte_withRead (b : Byte) : takePackedByte b (withRead r s) = withRead r (takePackedByte b s) := by
  cases hh : s.halfValid with
  | false =>
    rw [takePackedByte_low hh]
    exact takePackedByte_low (s := withRead r s) hh
  | true =>
    have hfault : codeFault (assembleCode b (withRead r s).halfByte) (withRead r s) =
        codeFault (assembleCode b s.halfByte) s := rfl
    have hcode := decodeCode_withRead r s (assembleCode b s.halfByte)
    rw [takePackedByte, takePackedByte, if_pos hh, if_pos (c := (withRead r s).halfValid = true) hh, hfault]
    cases codeFault (assembleCode b s.halfByte) s with
    | some cause => rfl
    | none => exact congrArg (fun u : State => countIn { u with halfValid := false }) hcode

theorem closeDecode_withRead : closeDecode (withRead r s) = withRead r (closeDecode s) := by
  rcases closeDecode_cases s with ⟨hh, h⟩ | ⟨hh, h⟩ <;> rw [h]
  · exact closeDecode_of_half (s := withRead r s) hh
  · exact closeDecode_of_whole (s := withRead r s) hh

theorem waitBusy_withRead (queued : Nat) : waitBusy queued (withRead r s) = withRead r (waitBusy queued s) := by
  rw [waitBusy, waitBusy]
  split <;> rfl

/-- No command reads or writes the word latched. -/
theorem coreNext_withRead (w : Word) : coreNext w (withRead r s) = withRead r (coreNext w s) := by
  have heffect (i : Instr) : effectOf i (withRead r s) = withRead r (effectOf i s) := by
    cases i with
    | nop | encStart | decStart | abort => rfl
    | encByte c => exact takeInputByte_withRead r s c
    | encEnd => exact flushAndClose_withRead r s
    | decByte b => exact takePackedByte_withRead r s b
    | decEnd => exact closeDecode_withRead r s
  rw [coreNext, coreNext]
  cases decode w with
  | none =>
    show takeIllegal w (withRead r s) = withRead r (takeIllegal w s)
    by_cases hm : s.mode = .fault
    · rw [takeIllegal_of_fault hm]
      exact takeIllegal_of_fault (s := withRead r s) hm
    · rw [takeIllegal_of_not_fault hm]
      exact takeIllegal_of_not_fault (s := withRead r s) hm
  | some i =>
    show performIfLegal i (effectOf i) (withRead r s) = withRead r (performIfLegal i (effectOf i) s)
    rcases performIfLegal_cases i (effectOf i) s with ⟨hlegal, h⟩ | ⟨hlegal, hm, h⟩ | ⟨hlegal, hm, h⟩ <;> rw [h]
    · rw [← heffect]
      exact performIfLegal_legal (s := withRead r s) _ hlegal
    · exact performIfLegal_dropped (s := withRead r s) _ hlegal hm
    · exact performIfLegal_sequenceError (s := withRead r s) _ hlegal hm

end

/-- The read that an edge asks for shows in the latched word alone. -/
theorem sampleAndPop_withRead (e : Edge) (rest pending : List Edge) (s : State) (addr : BitVec 3) (p : ReadPick) :
    ∃ r, sampleAndPop { e with regAddr := addr, pick := p } rest { s with edges := pending } =
      withRead r (sampleAndPop e rest s) := by
  refine ⟨({ s with edges := pending } : State).readReg p addr, ?_⟩
  rw [sampleAndPop, sampleAndPop, popIfReady, popIfReady]
  cases e.outReady with
  | false => rfl
  | true =>
    cases hq : s.outq <;> simp [popByte, samplePorts, hq, withRead]

/-- Settles O16: whatever the edge comes to, the word read passes through it to the latch. -/
theorem readsHaveNoSideEffect : Obligations.ReadsHaveNoSideEffect := by
  unfold Obligations.ReadsHaveNoSideEffect
  intro s t u e rest addr p he ht hu
  suffices hread : ∃ r, u = withRead r t by
    obtain ⟨r, rfl⟩ := hread
    rfl
  obtain ⟨r, hr⟩ := sampleAndPop_withRead e rest ({ e with regAddr := addr, pick := p } :: rest) s addr p
  have he' : ({ s with edges := { e with regAddr := addr, pick := p } :: rest } : State).edges =
      { e with regAddr := addr, pick := p } :: rest := rfl
  cases hrst : e.rst with
  | true =>
    rw [step_of_reset he hrst] at ht
    rw [step_of_reset he' hrst] at hu
    cases ht
    cases hu
    exact ⟨_, rfl⟩
  | false =>
    cases hb : s.busy with
    | true =>
      rw [step_of_busy he hrst hb] at ht
      rw [step_of_busy he' hrst hb, hr] at hu
      cases ht
      cases hu
      exact ⟨r, waitBusy_withRead r _ _⟩
    | false =>
      cases ho : offered e s with
      | none =>
        rw [step_of_rest he hrst hb ho] at ht
        rw [step_of_rest he' hrst hb ho, hr] at hu
        cases ht
        cases hu
        exact ⟨r, rfl⟩
      | some w =>
        rw [step_of_offered he hrst hb ho, coreStep_eq] at ht
        rw [step_of_offered he' hrst hb ho, hr, coreStep_eq] at hu
        cases ht
        cases hu
        exact ⟨r, coreNext_withRead r (acceptWord e.gap s.cmdq.tail (sampleAndPop e rest s)) w⟩

end Sys2Proof.Machine
end

section
/-! The assembler's lines (30_encoding.md R73, R74, R76, R78). -/

namespace Sys2Proof.Machine

open Sys2Proof

@[simp] theorem byteOperandOk_toNat (b : Byte) : byteOperandOk b.toNat = true := decide_eq_true b.isLt

theorem byteOperandOk_of_ge {n : Nat} (h : 256 ≤ n) : byteOperandOk n = false :=
  decide_eq_false (Nat.not_lt_of_le h)

theorem wordOperandOk_of_ge {n : Nat} (h : 65536 ≤ n) : wordOperandOk n = false :=
  decide_eq_false (Nat.not_lt_of_le h)

/-- Settles O58: the range check lets every code and every byte through, and the words are those of the bytes. -/
theorem decCodeExpandsLowByteFirst : Obligations.DecCodeExpandsLowByteFirst := by
  unfold Obligations.DecCodeExpandsLowByteFirst
  refine ⟨fun k => ?code, fun n hn => ?beyond, fun bs => ?bytes⟩
  case code =>
    rw [expandLine, if_pos (wordOperandOk_toNat k), ofNat_toNat_self]
    rfl
  case beyond => simp [expandLine, wordOperandOk_of_ge hn]
  case bytes =>
    have hall : (bs.map BitVec.toNat).all byteOperandOk = true := by simp [List.all_map]
    rw [expandLine, if_pos hall, List.map_map]
    refine congrArg some (List.map_congr_left fun b _ => ?_)
    rw [Function.comp_apply, ofNat_toNat_self, encode_decByte]

/-! ## Mnemonic lines (R73, R74) -/

theorem byteCommand_of_ge (make : Byte → Instr) {n : Nat} (h : 256 ≤ n) : byteCommand make (some n) = none := by
  simp [byteCommand, byteOperandOk_of_ge h]

theorem byteCommand_toNat (make : Byte → Instr) (b : Byte) :
    byteCommand make (some b.toNat) = some [encode (make b)] := by
  rw [byteCommand, if_pos (byteOperandOk_toNat b), ofNat_toNat_self]

/-- Settles O60: the byte commands by their range check, the others by whether an operand is written. -/
theorem assemblerRefusesBadOperands : Obligations.AssemblerRefusesBadOperands := by
  unfold Obligations.AssemblerRefusesBadOperands
  refine ⟨fun n hn => ?beyond, fun c => ?byte, fun m n hm => ?operand, rfl, rfl, ?words⟩
  case beyond => exact ⟨byteCommand_of_ge .encByte hn, byteCommand_of_ge .decByte hn⟩
  case byte => exact ⟨byteCommand_toNat .encByte c, byteCommand_toNat .decByte c⟩
  case operand =>
    simp only [List.mem_cons, List.not_mem_nil, or_false] at hm
    rcases hm with rfl | rfl | rfl | rfl | rfl | rfl <;> rfl
  case words =>
    refine ⟨by decide, by decide, by decide, by decide, by decide, by decide, fun w => ?_⟩
    rw [expandLine, if_pos (wordOperandOk_toNat w), ofNat_toNat_self]

end Sys2Proof.Machine
end
